-- ==== Sys2Proof/Word.lean ====
section
/-! DEFINITION. The two word types of the block (00_scope.md R6, R7): an 8-bit byte and a 16-bit word. Every sum
of two of them wraps, as `BitVec` addition does (20_memory.md R56). -/

namespace Sys2Proof

/-- A `u8`: A, X, Y, SP, the status byte, one memory byte (R6, R7). -/
abbrev Byte := BitVec 8

/-- A `u16`: PC and every address (R6, R7). -/
abbrev Word := BitVec 16

end Sys2Proof
end

