-- ==== Sys2Proof/Config.lean ====
section
/-! DEFINITION. The parameters of 00_scope.md R6 that are not widths: `zpPointerWrap`, `PowerOn`, and what a byte of
the memory reads as before anything has written it. -/

namespace Sys2Proof

/-- The open parameter `PowerOn` of 92_eei_decisions.md D3 (R6, R313): the registers and flags at construction. -/
structure PowerOn where
  a  : Byte
  x  : Byte
  y  : Byte
  sp : Byte
  pc : Word
  c  : Bool
  z  : Bool
  i  : Bool
  d  : Bool
  v  : Bool
  n  : Bool
  deriving DecidableEq, Repr

/-- DESIGN CHOICE (unsafe, log entry 1): the power-on draw behind `State.reset` is all zero. Statements about every
state do not rest on it. -/
def Config.powerOn : PowerOn :=
  { a := 0, x := 0, y := 0, sp := 0, pc := 0,
    c := false, z := false, i := false, d := false, v := false, n := false }

/-- DESIGN CHOICE (unsafe, log entry 2): what an address that the memory list does not name reads as. The spec leaves
`mem0` to the host (92_eei_decisions.md D29). -/
def Config.unlistedByte : Byte := 0

/-- `zpPointerWrap` (R6, R111, 92_eei_decisions.md D15): false, so the high byte of a zero-page pointer at 0xFF comes
from 0x0100 (log entry 9). -/
def Config.zpPointerWrap : Bool := false

end Sys2Proof
end

