-- ==== Sys2Proof/Syntax/Modes.lean ====
section
/-! DEFINITION. The operand forms of 40_addressing.md, carrying the staged operand they use (30_encoding.md R83).
IMP has no operand and REL is a byte of the branch itself, so neither needs a type here. -/

namespace Sys2Proof

/-- The eight modes that name a byte of memory (40_addressing.md R105 to R112). -/
inductive MemMode where
  /-- Zero page, R105. -/
  | zp (d : Byte)
  /-- Zero page,X, R106. -/
  | zpx (d : Byte)
  /-- Zero page,Y, R107. -/
  | zpy (d : Byte)
  /-- Absolute, R108. -/
  | abs (a : Word)
  /-- Absolute,X, R109. -/
  | absx (a : Word)
  /-- Absolute,Y, R110. -/
  | absy (a : Word)
  /-- Indexed indirect `(zp,X)`, R111. -/
  | indx (d : Byte)
  /-- Indirect indexed `(zp),Y`, R112. -/
  | indy (d : Byte)
  deriving DecidableEq, Repr

/-- The operand of a read-class instruction: immediate (R104) or a byte of memory. -/
inductive Src where
  | imm (v : Byte)
  | mem (m : MemMode)
  deriving DecidableEq, Repr

/-- The operand of a shift or rotate: the accumulator (R113) or a byte of memory. -/
inductive Dst where
  | acc
  | mem (m : MemMode)
  deriving DecidableEq, Repr

/-- The operand of JMP: absolute (R108, R219) or absolute indirect (R116, R220). -/
inductive JmpTarget where
  | abs (a : Word)
  | ind (p : Word)
  deriving DecidableEq, Repr

end Sys2Proof
end

