-- ==== Sys2Proof/Syntax.lean ====
section
/-! DEFINITION. The instructions: one constructor per mnemonic of spec/opcode_table.json, carrying the operand form
of its row, so that each of the table's 256 rows is one constructor at one form (log entry 8). ANC, KIL and the
fail-soft opcode carry the opcode byte, which is all that tells their rows apart. -/

namespace Sys2Proof

inductive Instr where
  -- 41_load_store.md, R130 to R141
  | lda (src : Src)
  | ldx (src : Src)
  | ldy (src : Src)
  | sta (dst : MemMode)
  | stx (dst : MemMode)
  | sty (dst : MemMode)
  | tax
  | tay
  | txa
  | tya
  | tsx
  | txs
  -- 42_arith.md, R164 to R175
  | adc (src : Src)
  | sbc (src : Src)
  | cmp (src : Src)
  | cpx (src : Src)
  | cpy (src : Src)
  | inc (dst : MemMode)
  | dec (dst : MemMode)
  | inx
  | iny
  | dex
  | dey
  -- 43_logic_shift.md, R190 to R197
  | and (src : Src)
  | ora (src : Src)
  | eor (src : Src)
  | bit (src : MemMode)
  | asl (dst : Dst)
  | lsr (dst : Dst)
  | rol (dst : Dst)
  | ror (dst : Dst)
  -- 44_control.md, R211 to R224
  | bcc (off : Byte)
  | bcs (off : Byte)
  | beq (off : Byte)
  | bne (off : Byte)
  | bmi (off : Byte)
  | bpl (off : Byte)
  | bvc (off : Byte)
  | bvs (off : Byte)
  | jmp (target : JmpTarget)
  | jsr (target : Word)
  | rts
  | rti
  | brk
  -- 45_stack_flags.md, R240 to R251
  | pha
  | php
  | pla
  | plp
  | clc
  | sec
  | cli
  | sei
  | cld
  | sed
  | clv
  | nop
  -- 47_illegal.md, R260 to R262
  | anc (opcode : Byte) (imm : Byte)
  | kil (opcode : Byte)
  | failsoft (opcode : Byte)
  deriving DecidableEq, Repr

end Sys2Proof
end

