-- ==== Sys2Proof/WellFormed.lean ====
section
/-! DEFINITION. Which terms of `Instr` some opcode byte of 30_encoding.md R84 denotes: each instruction rule lists
the forms it has, and 30_encoding.md R85 lists the bytes of ANC, KIL and the fail-soft opcode. -/

namespace Sys2Proof

/-- The forms of ADC, SBC, CMP, AND, ORA, EOR and LDA: all but ZPY (R130, R164, R165, R167, R190 to R192). -/
def Src.isAlu : Src → Bool
  | .imm _ => true
  | .mem (.zpy _) => false
  | .mem _ => true

/-- The forms of LDX: IMM, ZP, ZPY, ABS, ABSY (R131). -/
def Src.isLdx : Src → Bool
  | .imm _ | .mem (.zp _) | .mem (.zpy _) | .mem (.abs _) | .mem (.absy _) => true
  | _ => false

/-- The forms of LDY: IMM, ZP, ZPX, ABS, ABSX (R132). -/
def Src.isLdy : Src → Bool
  | .imm _ | .mem (.zp _) | .mem (.zpx _) | .mem (.abs _) | .mem (.absx _) => true
  | _ => false

/-- The forms of CPX and CPY: IMM, ZP, ABS (R168, R169). -/
def Src.isCpxy : Src → Bool
  | .imm _ | .mem (.zp _) | .mem (.abs _) => true
  | _ => false

/-- The forms of BIT: ZP, ABS (R193). -/
def MemMode.isBit : MemMode → Bool
  | .zp _ | .abs _ => true
  | _ => false

/-- The forms of STA: all but ZPY (R133). -/
def MemMode.isSta : MemMode → Bool
  | .zpy _ => false
  | _ => true

/-- The forms of STX: ZP, ZPY, ABS (R134). -/
def MemMode.isStx : MemMode → Bool
  | .zp _ | .zpy _ | .abs _ => true
  | _ => false

/-- The forms of STY: ZP, ZPX, ABS (R135). -/
def MemMode.isSty : MemMode → Bool
  | .zp _ | .zpx _ | .abs _ => true
  | _ => false

/-- The memory forms of a read-modify-write instruction: ZP, ZPX, ABS, ABSX (R170, R171, R194 to R197). -/
def MemMode.isRmw : MemMode → Bool
  | .zp _ | .zpx _ | .abs _ | .absx _ => true
  | _ => false

/-- The forms of ASL, LSR, ROL and ROR: ACC and the memory forms (R194 to R197). -/
def Dst.isShift : Dst → Bool
  | .acc => true
  | .mem m => m.isRmw

/-- The two ANC bytes (R85 (b)). -/
def ancOpcodes : List Byte := [0x0B, 0x2B]

/-- The twelve KIL bytes (R85 (c)). -/
def kilOpcodes : List Byte :=
  [0x02, 0x12, 0x22, 0x32, 0x42, 0x52, 0x62, 0x72, 0x92, 0xB2, 0xD2, 0xF2]

/-- The 91 fail-soft bytes (R85 (d)). -/
def failsoftOpcodes : List Byte :=
  [0x03, 0x04, 0x07, 0x0C, 0x0F, 0x13, 0x14, 0x17, 0x1A, 0x1B, 0x1C, 0x1F, 0x23, 0x27, 0x2F] ++
  [0x33, 0x34, 0x37, 0x3A, 0x3B, 0x3C, 0x3F, 0x43, 0x44, 0x47, 0x4B, 0x4F, 0x53, 0x54, 0x57, 0x5A, 0x5B, 0x5C, 0x5F] ++
  [0x63, 0x64, 0x67, 0x6B, 0x6F, 0x73, 0x74, 0x77, 0x7A, 0x7B, 0x7C, 0x7F, 0x80, 0x82, 0x83, 0x87, 0x89, 0x8B, 0x8F] ++
  [0x93, 0x97, 0x9B, 0x9C, 0x9E, 0x9F, 0xA3, 0xA7, 0xAB, 0xAF, 0xB3, 0xB7, 0xBB, 0xBF, 0xC2, 0xC3, 0xC7, 0xCB, 0xCF] ++
  [0xD3, 0xD4, 0xD7, 0xDA, 0xDB, 0xDC, 0xDF, 0xE2, 0xE3, 0xE7, 0xEB, 0xEF, 0xF3, 0xF4, 0xF7, 0xFA, 0xFB, 0xFC, 0xFF]

/-- Some opcode byte denotes the term. -/
def Instr.wellFormed : Instr → Bool
  | .lda s | .adc s | .sbc s | .cmp s | .and s | .ora s | .eor s => s.isAlu
  | .ldx s => s.isLdx
  | .ldy s => s.isLdy
  | .cpx s | .cpy s => s.isCpxy
  | .bit m => m.isBit
  | .sta m => m.isSta
  | .stx m => m.isStx
  | .sty m => m.isSty
  | .inc m | .dec m => m.isRmw
  | .asl t | .lsr t | .rol t | .ror t => t.isShift
  | .anc op _ => ancOpcodes.contains op
  | .kil op => kilOpcodes.contains op
  | .failsoft op => failsoftOpcodes.contains op
  | .bcc _ | .bcs _ | .beq _ | .bne _ | .bmi _ | .bpl _ | .bvc _ | .bvs _ => true
  | .jmp _ | .jsr _ | .rts | .rti | .brk => true
  | .tax | .tay | .txa | .tya | .tsx | .txs | .inx | .iny | .dex | .dey => true
  | .pha | .php | .pla | .plp | .clc | .sec | .cli | .sei | .cld | .sed | .clv | .nop => true

end Sys2Proof
end

