-- ==== Sys2Proof/Decode.lean ====
section
/-! DEFINITION. 30_encoding.md: the byte-order helpers, the decoder (total on the staged bytes, R82 to R87), the
same over a list of bytes, the encoder written from the "Encodings" lines of the instruction rules, and the host's
`decodeTableWord`. -/

namespace Sys2Proof

/-- `lo | (hi << 8)`: two bytes in little-endian order (R54, R82). -/
def joinBytes (lo hi : Byte) : Word := hi ++ lo

/-- `lo8(w)` of R7. -/
def lo8 (w : Word) : Byte := w.setWidth 8

/-- `hi8(w)` of R7. -/
def hi8 (w : Word) : Byte := (w >>> 8).setWidth 8

/-- The opcode map of R84 on the staged `Op`, `Data` and `Address` (R82, R83). The opcode byte alone selects the row
(R85, R87), and every byte that no other row takes is the fail-soft no-op (R86). -/
def decodeStaged (op data : Byte) (address : Word) : Instr :=
  match op.toNat with
  -- row 0x of R84
  | 0x00 => .brk
  | 0x01 => .ora (.mem (.indx data))
  | 0x02 => .kil op
  | 0x05 => .ora (.mem (.zp data))
  | 0x06 => .asl (.mem (.zp data))
  | 0x08 => .php
  | 0x09 => .ora (.imm data)
  | 0x0A => .asl .acc
  | 0x0B => .anc op data
  | 0x0D => .ora (.mem (.abs address))
  | 0x0E => .asl (.mem (.abs address))
  -- row 1x of R84
  | 0x10 => .bpl data
  | 0x11 => .ora (.mem (.indy data))
  | 0x12 => .kil op
  | 0x15 => .ora (.mem (.zpx data))
  | 0x16 => .asl (.mem (.zpx data))
  | 0x18 => .clc
  | 0x19 => .ora (.mem (.absy address))
  | 0x1D => .ora (.mem (.absx address))
  | 0x1E => .asl (.mem (.absx address))
  -- row 2x of R84
  | 0x20 => .jsr address
  | 0x21 => .and (.mem (.indx data))
  | 0x22 => .kil op
  | 0x24 => .bit (.zp data)
  | 0x25 => .and (.mem (.zp data))
  | 0x26 => .rol (.mem (.zp data))
  | 0x28 => .plp
  | 0x29 => .and (.imm data)
  | 0x2A => .rol .acc
  | 0x2B => .anc op data
  | 0x2C => .bit (.abs address)
  | 0x2D => .and (.mem (.abs address))
  | 0x2E => .rol (.mem (.abs address))
  -- row 3x of R84
  | 0x30 => .bmi data
  | 0x31 => .and (.mem (.indy data))
  | 0x32 => .kil op
  | 0x35 => .and (.mem (.zpx data))
  | 0x36 => .rol (.mem (.zpx data))
  | 0x38 => .sec
  | 0x39 => .and (.mem (.absy address))
  | 0x3D => .and (.mem (.absx address))
  | 0x3E => .rol (.mem (.absx address))
  -- row 4x of R84
  | 0x40 => .rti
  | 0x41 => .eor (.mem (.indx data))
  | 0x42 => .kil op
  | 0x45 => .eor (.mem (.zp data))
  | 0x46 => .lsr (.mem (.zp data))
  | 0x48 => .pha
  | 0x49 => .eor (.imm data)
  | 0x4A => .lsr .acc
  | 0x4C => .jmp (.abs address)
  | 0x4D => .eor (.mem (.abs address))
  | 0x4E => .lsr (.mem (.abs address))
  -- row 5x of R84
  | 0x50 => .bvc data
  | 0x51 => .eor (.mem (.indy data))
  | 0x52 => .kil op
  | 0x55 => .eor (.mem (.zpx data))
  | 0x56 => .lsr (.mem (.zpx data))
  | 0x58 => .cli
  | 0x59 => .eor (.mem (.absy address))
  | 0x5D => .eor (.mem (.absx address))
  | 0x5E => .lsr (.mem (.absx address))
  -- row 6x of R84
  | 0x60 => .rts
  | 0x61 => .adc (.mem (.indx data))
  | 0x62 => .kil op
  | 0x65 => .adc (.mem (.zp data))
  | 0x66 => .ror (.mem (.zp data))
  | 0x68 => .pla
  | 0x69 => .adc (.imm data)
  | 0x6A => .ror .acc
  | 0x6C => .jmp (.ind address)
  | 0x6D => .adc (.mem (.abs address))
  | 0x6E => .ror (.mem (.abs address))
  -- row 7x of R84
  | 0x70 => .bvs data
  | 0x71 => .adc (.mem (.indy data))
  | 0x72 => .kil op
  | 0x75 => .adc (.mem (.zpx data))
  | 0x76 => .ror (.mem (.zpx data))
  | 0x78 => .sei
  | 0x79 => .adc (.mem (.absy address))
  | 0x7D => .adc (.mem (.absx address))
  | 0x7E => .ror (.mem (.absx address))
  -- row 8x of R84
  | 0x81 => .sta (.indx data)
  | 0x84 => .sty (.zp data)
  | 0x85 => .sta (.zp data)
  | 0x86 => .stx (.zp data)
  | 0x88 => .dey
  | 0x8A => .txa
  | 0x8C => .sty (.abs address)
  | 0x8D => .sta (.abs address)
  | 0x8E => .stx (.abs address)
  -- row 9x of R84
  | 0x90 => .bcc data
  | 0x91 => .sta (.indy data)
  | 0x92 => .kil op
  | 0x94 => .sty (.zpx data)
  | 0x95 => .sta (.zpx data)
  | 0x96 => .stx (.zpy data)
  | 0x98 => .tya
  | 0x99 => .sta (.absy address)
  | 0x9A => .txs
  | 0x9D => .sta (.absx address)
  -- row Ax of R84
  | 0xA0 => .ldy (.imm data)
  | 0xA1 => .lda (.mem (.indx data))
  | 0xA2 => .ldx (.imm data)
  | 0xA4 => .ldy (.mem (.zp data))
  | 0xA5 => .lda (.mem (.zp data))
  | 0xA6 => .ldx (.mem (.zp data))
  | 0xA8 => .tay
  | 0xA9 => .lda (.imm data)
  | 0xAA => .tax
  | 0xAC => .ldy (.mem (.abs address))
  | 0xAD => .lda (.mem (.abs address))
  | 0xAE => .ldx (.mem (.abs address))
  -- row Bx of R84
  | 0xB0 => .bcs data
  | 0xB1 => .lda (.mem (.indy data))
  | 0xB2 => .kil op
  | 0xB4 => .ldy (.mem (.zpx data))
  | 0xB5 => .lda (.mem (.zpx data))
  | 0xB6 => .ldx (.mem (.zpy data))
  | 0xB8 => .clv
  | 0xB9 => .lda (.mem (.absy address))
  | 0xBA => .tsx
  | 0xBC => .ldy (.mem (.absx address))
  | 0xBD => .lda (.mem (.absx address))
  | 0xBE => .ldx (.mem (.absy address))
  -- row Cx of R84
  | 0xC0 => .cpy (.imm data)
  | 0xC1 => .cmp (.mem (.indx data))
  | 0xC4 => .cpy (.mem (.zp data))
  | 0xC5 => .cmp (.mem (.zp data))
  | 0xC6 => .dec (.zp data)
  | 0xC8 => .iny
  | 0xC9 => .cmp (.imm data)
  | 0xCA => .dex
  | 0xCC => .cpy (.mem (.abs address))
  | 0xCD => .cmp (.mem (.abs address))
  | 0xCE => .dec (.abs address)
  -- row Dx of R84
  | 0xD0 => .bne data
  | 0xD1 => .cmp (.mem (.indy data))
  | 0xD2 => .kil op
  | 0xD5 => .cmp (.mem (.zpx data))
  | 0xD6 => .dec (.zpx data)
  | 0xD8 => .cld
  | 0xD9 => .cmp (.mem (.absy address))
  | 0xDD => .cmp (.mem (.absx address))
  | 0xDE => .dec (.absx address)
  -- row Ex of R84
  | 0xE0 => .cpx (.imm data)
  | 0xE1 => .sbc (.mem (.indx data))
  | 0xE4 => .cpx (.mem (.zp data))
  | 0xE5 => .sbc (.mem (.zp data))
  | 0xE6 => .inc (.zp data)
  | 0xE8 => .inx
  | 0xE9 => .sbc (.imm data)
  | 0xEA => .nop
  | 0xEC => .cpx (.mem (.abs address))
  | 0xED => .sbc (.mem (.abs address))
  | 0xEE => .inc (.abs address)
  -- row Fx of R84
  | 0xF0 => .beq data
  | 0xF1 => .sbc (.mem (.indy data))
  | 0xF2 => .kil op
  | 0xF5 => .sbc (.mem (.zpx data))
  | 0xF6 => .inc (.zpx data)
  | 0xF8 => .sed
  | 0xF9 => .sbc (.mem (.absy address))
  | 0xFD => .sbc (.mem (.absx address))
  | 0xFE => .inc (.absx address)
  -- the 91 bytes of R85 (d)
  | _ => .failsoft op

/-- The operand bytes of an instruction's encoding in memory order (R80, R83). BRK's signature byte and what follows
a KIL or fail-soft opcode are no operands. -/
def MemMode.operandBytes : MemMode → List Byte
  | .zp d | .zpx d | .zpy d | .indx d | .indy d => [d]
  | .abs a | .absx a | .absy a => [lo8 a, hi8 a]

def Src.operandBytes : Src → List Byte
  | .imm v => [v]
  | .mem m => m.operandBytes

def Dst.operandBytes : Dst → List Byte
  | .acc => []
  | .mem m => m.operandBytes

def Instr.operandBytes : Instr → List Byte
  | .lda s | .ldx s | .ldy s | .adc s | .sbc s | .cmp s | .cpx s | .cpy s | .and s | .ora s | .eor s => s.operandBytes
  | .sta m | .stx m | .sty m | .inc m | .dec m | .bit m => m.operandBytes
  | .asl t | .lsr t | .rol t | .ror t => t.operandBytes
  | .bcc o | .bcs o | .beq o | .bne o | .bmi o | .bpl o | .bvc o | .bvs o => [o]
  | .jmp (.abs a) | .jmp (.ind a) | .jsr a => [lo8 a, hi8 a]
  | .anc _ v => [v]
  | .kil _ | .failsoft _ | .rts | .rti | .brk => []
  | .tax | .tay | .txa | .tya | .tsx | .txs | .inx | .iny | .dex | .dey => []
  | .pha | .php | .pla | .plp | .clc | .sec | .cli | .sei | .cld | .sed | .clv | .nop => []

/-- Why a list of bytes is not an instruction. The opcode never is the reason (R85); a step stages three bytes and
meets neither (log entry 14). -/
inductive DecodeError where
  /-- The list is empty. -/
  | noBytes
  /-- The list ends before the operand bytes of this opcode do. -/
  | truncated (opcode : Byte)
  deriving DecidableEq, Repr

/-- The instruction at the head of a list of bytes, and the bytes after its encoding. -/
def decode : List Byte → Except DecodeError (Instr × List Byte)
  | [] => .error .noBytes
  | op :: rest =>
    match (decodeStaged op 0 0).operandBytes.length, rest with
    | 0, _ => .ok (decodeStaged op 0 0, rest)
    | 1, b1 :: rest' => .ok (decodeStaged op b1 (joinBytes b1 0), rest')
    | 2, b1 :: b2 :: rest' => .ok (decodeStaged op b1 (joinBytes b1 b2), rest')
    | _, _ => .error (.truncated op)

/-- One instruction rule's "Encodings" line: the opcode byte of each mode it has. -/
structure OpcodeRow where
  imm  : Option Byte := none
  acc  : Option Byte := none
  zp   : Option Byte := none
  zpx  : Option Byte := none
  zpy  : Option Byte := none
  abs  : Option Byte := none
  absx : Option Byte := none
  absy : Option Byte := none
  indx : Option Byte := none
  indy : Option Byte := none
  deriving DecidableEq, Repr

def OpcodeRow.mem (r : OpcodeRow) : MemMode → Option Byte
  | .zp _ => r.zp
  | .zpx _ => r.zpx
  | .zpy _ => r.zpy
  | .abs _ => r.abs
  | .absx _ => r.absx
  | .absy _ => r.absy
  | .indx _ => r.indx
  | .indy _ => r.indy

def OpcodeRow.src (r : OpcodeRow) : Src → Option Byte
  | .imm _ => r.imm
  | .mem m => r.mem m

def OpcodeRow.dst (r : OpcodeRow) : Dst → Option Byte
  | .acc => r.acc
  | .mem m => r.mem m

/-- The encodings of LDA (R130). -/
def ldaRow : OpcodeRow :=
  { imm := some 0xA9, zp := some 0xA5, zpx := some 0xB5, abs := some 0xAD, absx := some 0xBD,
    absy := some 0xB9, indx := some 0xA1, indy := some 0xB1 }

/-- The encodings of LDX (R131). -/
def ldxRow : OpcodeRow :=
  { imm := some 0xA2, zp := some 0xA6, zpy := some 0xB6, abs := some 0xAE, absy := some 0xBE }

/-- The encodings of LDY (R132). -/
def ldyRow : OpcodeRow :=
  { imm := some 0xA0, zp := some 0xA4, zpx := some 0xB4, abs := some 0xAC, absx := some 0xBC }

/-- The encodings of STA (R133). -/
def staRow : OpcodeRow :=
  { zp := some 0x85, zpx := some 0x95, abs := some 0x8D, absx := some 0x9D, absy := some 0x99,
    indx := some 0x81, indy := some 0x91 }

/-- The encodings of STX (R134). -/
def stxRow : OpcodeRow :=
  { zp := some 0x86, zpy := some 0x96, abs := some 0x8E }

/-- The encodings of STY (R135). -/
def styRow : OpcodeRow :=
  { zp := some 0x84, zpx := some 0x94, abs := some 0x8C }

/-- The encodings of ADC (R164). -/
def adcRow : OpcodeRow :=
  { imm := some 0x69, zp := some 0x65, zpx := some 0x75, abs := some 0x6D, absx := some 0x7D,
    absy := some 0x79, indx := some 0x61, indy := some 0x71 }

/-- The encodings of SBC (R165). -/
def sbcRow : OpcodeRow :=
  { imm := some 0xE9, zp := some 0xE5, zpx := some 0xF5, abs := some 0xED, absx := some 0xFD,
    absy := some 0xF9, indx := some 0xE1, indy := some 0xF1 }

/-- The encodings of CMP (R167). -/
def cmpRow : OpcodeRow :=
  { imm := some 0xC9, zp := some 0xC5, zpx := some 0xD5, abs := some 0xCD, absx := some 0xDD,
    absy := some 0xD9, indx := some 0xC1, indy := some 0xD1 }

/-- The encodings of CPX (R168). -/
def cpxRow : OpcodeRow :=
  { imm := some 0xE0, zp := some 0xE4, abs := some 0xEC }

/-- The encodings of CPY (R169). -/
def cpyRow : OpcodeRow :=
  { imm := some 0xC0, zp := some 0xC4, abs := some 0xCC }

/-- The encodings of INC (R170). -/
def incRow : OpcodeRow :=
  { zp := some 0xE6, zpx := some 0xF6, abs := some 0xEE, absx := some 0xFE }

/-- The encodings of DEC (R171). -/
def decRow : OpcodeRow :=
  { zp := some 0xC6, zpx := some 0xD6, abs := some 0xCE, absx := some 0xDE }

/-- The encodings of AND (R190). -/
def andRow : OpcodeRow :=
  { imm := some 0x29, zp := some 0x25, zpx := some 0x35, abs := some 0x2D, absx := some 0x3D,
    absy := some 0x39, indx := some 0x21, indy := some 0x31 }

/-- The encodings of ORA (R191). -/
def oraRow : OpcodeRow :=
  { imm := some 0x09, zp := some 0x05, zpx := some 0x15, abs := some 0x0D, absx := some 0x1D,
    absy := some 0x19, indx := some 0x01, indy := some 0x11 }

/-- The encodings of EOR (R192). -/
def eorRow : OpcodeRow :=
  { imm := some 0x49, zp := some 0x45, zpx := some 0x55, abs := some 0x4D, absx := some 0x5D,
    absy := some 0x59, indx := some 0x41, indy := some 0x51 }

/-- The encodings of BIT (R193). -/
def bitRow : OpcodeRow :=
  { zp := some 0x24, abs := some 0x2C }

/-- The encodings of ASL (R194). -/
def aslRow : OpcodeRow :=
  { acc := some 0x0A, zp := some 0x06, zpx := some 0x16, abs := some 0x0E, absx := some 0x1E }

/-- The encodings of LSR (R195). -/
def lsrRow : OpcodeRow :=
  { acc := some 0x4A, zp := some 0x46, zpx := some 0x56, abs := some 0x4E, absx := some 0x5E }

/-- The encodings of ROL (R196). -/
def rolRow : OpcodeRow :=
  { acc := some 0x2A, zp := some 0x26, zpx := some 0x36, abs := some 0x2E, absx := some 0x3E }

/-- The encodings of ROR (R197). -/
def rorRow : OpcodeRow :=
  { acc := some 0x6A, zp := some 0x66, zpx := some 0x76, abs := some 0x6E, absx := some 0x7E }

/-- The opcode byte of an instruction, from its rule's encodings. None for an operand form the rule does not list. -/
def Instr.opcode : Instr → Option Byte
  | .lda s => ldaRow.src s
  | .ldx s => ldxRow.src s
  | .ldy s => ldyRow.src s
  | .sta m => staRow.mem m
  | .stx m => stxRow.mem m
  | .sty m => styRow.mem m
  | .tax => some 0xAA
  | .tay => some 0xA8
  | .txa => some 0x8A
  | .tya => some 0x98
  | .tsx => some 0xBA
  | .txs => some 0x9A
  | .adc s => adcRow.src s
  | .sbc s => sbcRow.src s
  | .cmp s => cmpRow.src s
  | .cpx s => cpxRow.src s
  | .cpy s => cpyRow.src s
  | .inc m => incRow.mem m
  | .dec m => decRow.mem m
  | .inx => some 0xE8
  | .iny => some 0xC8
  | .dex => some 0xCA
  | .dey => some 0x88
  | .and s => andRow.src s
  | .ora s => oraRow.src s
  | .eor s => eorRow.src s
  | .bit m => bitRow.mem m
  | .asl t => aslRow.dst t
  | .lsr t => lsrRow.dst t
  | .rol t => rolRow.dst t
  | .ror t => rorRow.dst t
  | .bcc _ => some 0x90
  | .bcs _ => some 0xB0
  | .beq _ => some 0xF0
  | .bne _ => some 0xD0
  | .bmi _ => some 0x30
  | .bpl _ => some 0x10
  | .bvc _ => some 0x50
  | .bvs _ => some 0x70
  | .jmp (.abs _) => some 0x4C
  | .jmp (.ind _) => some 0x6C
  | .jsr _ => some 0x20
  | .rts => some 0x60
  | .rti => some 0x40
  | .brk => some 0x00
  | .pha => some 0x48
  | .php => some 0x08
  | .pla => some 0x68
  | .plp => some 0x28
  | .clc => some 0x18
  | .sec => some 0x38
  | .cli => some 0x58
  | .sei => some 0x78
  | .cld => some 0xD8
  | .sed => some 0xF8
  | .clv => some 0xB8
  | .nop => some 0xEA
  | .anc op _ | .kil op | .failsoft op => some op

/-- The bytes of a well-formed instruction (R80). None for a term that no opcode byte denotes. -/
def encode (i : Instr) : Option (List Byte) :=
  if i.wellFormed then i.opcode.map (· :: i.operandBytes) else none

/-- The host's table word: bit 0 is the least significant bit of the first byte. The bits from `nbits` up are zero. -/
def decodeTableWord (nbits w : Nat) : Option Instr :=
  let v := w % 2 ^ nbits
  match decode [BitVec.ofNat 8 v, BitVec.ofNat 8 (v / 256), BitVec.ofNat 8 (v / 65536)] with
  | .ok (i, _) => some i
  | .error _ => none

end Sys2Proof
end

