-- ==== Sys2Proof/Machine/State.lean ====
section
/-! DEFINITION. The state of the block and of the memory behind its port, as plain data (10_state.md R20 to R41,
20_memory.md R50 and R58), its power-on and reset values (70_reset_and_hazards.md R310 to R313), and the reasons a
step could stop. -/

namespace Sys2Proof.Machine

/-- The memory behind the port (R50, R63): address and byte, in the canonical form `Memory.wf` of Machine/Ops.lean.
An address that is not listed reads as `Config.unlistedByte`. -/
abbrev Memory := List Host.Cell

/-- One output event of a step, in the order the step makes it. -/
inductive Event where
  /-- `read a`: a byte read through the memory port (R58). -/
  | read (a : Word)
  /-- `write a v`: a byte written through the memory port (R58). -/
  | write (a : Word) (v : Byte)
  /-- `diag_unknown(op)`: a fail-soft opcode is reported (R262). Its text is not specified (92_eei_decisions.md D31). -/
  | diagUnknown (op : Byte)
  /-- `tick`: one elapsed cycle (R288). `seen` is the counter a subscriber reads at this tick
  (R289, 92_eei_decisions.md D20; log entry 5). -/
  | tick (seen : Nat)
  deriving DecidableEq, Repr

/-- Every piece of state of R41, the memory, and the events of the current or last step. -/
structure State where
  /-- Accumulator A (R21). -/
  a : Byte
  /-- Index register X (R22). -/
  x : Byte
  /-- Index register Y (R22). -/
  y : Byte
  /-- Stack pointer SP, an offset in page 0x01 (R23). -/
  sp : Byte
  /-- Program counter PC (R24). -/
  pc : Word
  /-- Carry C (R28). -/
  c : Bool
  /-- Zero Z (R29). -/
  z : Bool
  /-- Interrupt-disable I (R30). -/
  i : Bool
  /-- Decimal D (R31). -/
  d : Bool
  /-- Overflow V (R32). -/
  v : Bool
  /-- Negative N (R33). -/
  n : Bool
  /-- Reset request latch (R35). -/
  resetPending : Bool
  /-- NMI request latch (R35). -/
  nmiPending : Bool
  /-- IRQ request latch (R35). -/
  irqPending : Bool
  /-- Halt latch, JAM (R36). -/
  halted : Bool
  /-- Cycle counter, which never wraps (R37, 92_eei_decisions.md D5). -/
  cycles : Nat
  /-- Staged opcode byte Op (R38, R82). -/
  op : Byte
  /-- Staged operand byte Data (R38, R82). -/
  data : Byte
  /-- Staged 16-bit operand Address (R38, R82). -/
  address : Word
  /-- The memory (R50). -/
  mem : Memory
  /-- The events of the current or last activation, oldest first (R58, R288; log entry 4). -/
  trace : List Event
  deriving DecidableEq, Repr

/-- What stops a step. There is NO constructor: the block raises no exception and no access faults (R282), so nothing
raises one. Safe: a claim that no fault happens is a claim of the spec (log entry 10). -/
inductive Fault where
  deriving DecidableEq, Repr

/-- Why the model gives an activation no meaning. -/
inductive Refusal where
  /-- Raised by an arm of `exec` for an instruction that has no meaning yet. No arm does so: every instruction is
  modelled. Safe. -/
  | notModelled (mnemonic : String)
  /-- Raised by `hostCall` for a `step` or `jump_req` issued while a step is in progress, which the spec refuses
  (R289, R319). Never raised by `step`. Safe. -/
  | reentrant
  deriving DecidableEq, Repr

/-- Power-on, before any step (R313): the draws of `PowerOn`, the counter at 0, every latch clear, the host's memory. -/
def State.powerOn (p : PowerOn) (mem0 : Memory) : State :=
  { a := p.a, x := p.x, y := p.y, sp := p.sp, pc := p.pc,
    c := p.c, z := p.z, i := p.i, d := p.d, v := p.v, n := p.n,
    resetPending := false, nmiPending := false, irqPending := false, halted := false,
    cycles := 0, op := 0, data := 0, address := 0, mem := mem0, trace := [] }

/-- The machine right after reset (R310, R312), from the power-on values of `Config.powerOn` with nothing in the
memory list. `PC` is `Read16(0xFFFC)` of that memory. DESIGN CHOICE (unsafe, log entries 1, 2, 3): the values the spec
leaves to `PowerOn` and `mem0`, and the staging latches. -/
def State.reset : State :=
  { a := Config.powerOn.a, x := Config.powerOn.x, y := Config.powerOn.y,
    sp := Config.powerOn.sp - 3,
    pc := joinBytes Config.unlistedByte Config.unlistedByte,
    c := Config.powerOn.c, z := Config.powerOn.z, i := true,
    d := Config.powerOn.d, v := Config.powerOn.v, n := Config.powerOn.n,
    resetPending := false, nmiPending := false, irqPending := false, halted := false,
    cycles := 7, op := 0, data := 0, address := 0, mem := [],
    trace := [.read 0xFFFC, .read 0xFFFD, .tick 1, .tick 2, .tick 3, .tick 4, .tick 5, .tick 6, .tick 7] }

end Sys2Proof.Machine
end

