-- ==== Sys2Proof/Machine/Flags.lean ====
section
/-! DEFINITION. The packed status view (10_state.md R26, R27, R34), the flag helper (R43), and every flag and ALU
computation of 42_arith.md and 43_logic_shift.md. -/

namespace Sys2Proof.Machine

/-- `StatusRead()` (R26): bits 4 and 5 have no storage and read 1 (R34). -/
def statusRead (s : State) : Byte :=
  (if s.n then 0x80 else 0) ||| (if s.v then 0x40 else 0) ||| 0x20 ||| 0x10 |||
  (if s.d then 0x08 else 0) ||| (if s.i then 0x04 else 0) ||| (if s.z then 0x02 else 0) ||| (if s.c then 0x01 else 0)

/-- `StatusWrite(v)` (R27): bits 4 and 5 of the byte are ignored. -/
def statusWrite (b : Byte) (s : State) : State :=
  { s with c := b.getLsbD 0, z := b.getLsbD 1, i := b.getLsbD 2, d := b.getLsbD 3, v := b.getLsbD 6, n := b.getLsbD 7 }

/-- `SetZN(r)` (R43). -/
def setZN (r : Byte) (s : State) : State :=
  { s with z := r == 0, n := r.getLsbD 7 }

/-- What an adder function of R160 to R163 returns: `(r, C', Z', N', V')`. -/
structure AluResult where
  r : Byte
  c : Bool
  z : Bool
  n : Bool
  v : Bool
  deriving DecidableEq, Repr

/-- `AddBin(a, m, c)` (R160). -/
def addBin (a m : Byte) (c : Bool) : AluResult :=
  let s := a.toNat + m.toNat + c.toNat
  let r := BitVec.ofNat 8 s
  { r := r
    c := decide (s > 0xFF)
    z := r == 0
    n := r.getLsbD 7
    v := (~~~(a ^^^ m) &&& (a ^^^ r) &&& 0x80) != 0 }

/-- `AddDec(a, m, c)` (R161, 92_eei_decisions.md D16). -/
def addDec (a m : Byte) (c : Bool) : AluResult :=
  let lo := (a &&& 0x0F).toNat + (m &&& 0x0F).toNat + c.toNat
  let hc := decide (lo > 0x09)
  let hi := (a &&& 0xF0).toNat + (m &&& 0xF0).toNat + (if hc then 0x10 else 0)
  let c' := decide (hi > 0x9F)
  let t := BitVec.ofNat 8 ((hi &&& 0xF0) ||| (lo &&& 0x0F))
  let lo2 := if hc then lo + 0x06 else lo
  let hi2 := if c' then hi + 0x60 else hi
  { r := BitVec.ofNat 8 ((hi2 &&& 0xF0) ||| (lo2 &&& 0x0F))
    c := c'
    z := t == 0
    n := t.getLsbD 7
    v := (~~~(a ^^^ m) &&& (a ^^^ t) &&& 0x80) != 0 }

/-- `SubBin(a, m, c)` (R162): the carry is 1 when there is no borrow. -/
def subBin (a m : Byte) (c : Bool) : AluResult :=
  addBin a (~~~m) c

/-- `SubDec(a, m, c)` (R163, 92_eei_decisions.md D17). The adjusted nibbles can fall below zero, so they are integers
until they are reduced. -/
def subDec (a m : Byte) (c : Bool) : AluResult :=
  let lo := (a &&& 0x0F).toNat + (0x0F - (m &&& 0x0F).toNat) + c.toNat
  let hc := decide (lo > 0x0F)
  let hi := (a &&& 0xF0).toNat + (0xF0 - (m &&& 0xF0).toNat) + (if hc then 0x10 else 0)
  let c' := decide (hi > 0xFF)
  let t := BitVec.ofNat 8 ((hi &&& 0xF0) ||| (lo &&& 0x0F))
  let lo2 : Int := if hc then lo else (lo : Int) - 0x06
  let hi2 : Int := if c' then hi else (hi : Int) - 0x60
  { r := BitVec.ofNat 8 (((hi2 % 256).toNat &&& 0xF0) ||| (lo2 % 16).toNat)
    c := c'
    z := t == 0
    n := t.getLsbD 7
    v := ((a ^^^ m) &&& (a ^^^ t) &&& 0x80) != 0 }

/-- The sum ADC takes: binary, or decimal when `D = 1` (R164). -/
def adcResult (decimal : Bool) (a m : Byte) (c : Bool) : AluResult :=
  if decimal then addDec a m c else addBin a m c

/-- The difference SBC takes: binary, or decimal when `D = 1` (R165). -/
def sbcResult (decimal : Bool) (a m : Byte) (c : Bool) : AluResult :=
  if decimal then subDec a m c else subBin a m c

/-- `A <- r; C <- C'; Z <- Z'; N <- N'; V <- V'` (R164, R165). -/
def putAlu (t : AluResult) (s : State) : State :=
  { s with a := t.r, c := t.c, z := t.z, n := t.n, v := t.v }

/-- `Compare(reg, m)` (R166): Z and N are of the difference, which is not stored. -/
def compareFlags (reg m : Byte) (s : State) : State :=
  setZN (reg - m) { s with c := m.ule reg }

/-- The flags of BIT (R193). -/
def bitTest (m : Byte) (s : State) : State :=
  { s with z := (s.a &&& m) == 0, n := m.getLsbD 7, v := m.getLsbD 6 }

/-- ASL's result (R194). -/
def shiftLeft (m : Byte) : Byte := m <<< 1

/-- LSR's result (R195). -/
def shiftRight (m : Byte) : Byte := m >>> 1

/-- ROL's result: the previous carry enters bit 0 (R196). -/
def rotateLeft (c : Bool) (m : Byte) : Byte := (m <<< 1) ||| (if c then 0x01 else 0)

/-- ROR's result: the previous carry enters bit 7 (R197). -/
def rotateRight (c : Bool) (m : Byte) : Byte := (m >>> 1) ||| (if c then 0x80 else 0)

/-- `C <- c; SetZN(r)`, the flags of a shift or rotate (R194 to R197). -/
def shiftFlags (c : Bool) (r : Byte) (s : State) : State :=
  setZN r { s with c := c }

end Sys2Proof.Machine
end

