-- ==== Sys2Proof/Machine/Ops.lean ====
section
/-! DEFINITION. The named operations over memory and registers: the memory list, the port (20_memory.md R51, R52),
the stack (R61, R62), the PC advance (40_addressing.md R101), the cycle counter and its ticks (60_exceptions.md R288),
taking an interrupt and returning from one (R276, 44_control.md R223, R224), and the step's branches (R270). -/

namespace Sys2Proof.Machine

/-- The byte at an address (R63): the listed one, else what an unlisted address reads as. -/
def Memory.read : Memory → Word → Byte
  | [], _ => Config.unlistedByte
  | (k, b) :: rest, a => if k = a.toNat then b else Memory.read rest a

/-- The list without any entry for an address. -/
def Memory.erase : Memory → Nat → Memory
  | [], _ => []
  | (k, b) :: rest, a => if k = a then Memory.erase rest a else (k, b) :: Memory.erase rest a

/-- An entry put before the first entry with a larger address. -/
def Memory.insert : Memory → Nat → Byte → Memory
  | [], a, v => [(a, v)]
  | (k, b) :: rest, a, v => if a < k then (a, v) :: (k, b) :: rest else (k, b) :: Memory.insert rest a v

/-- A write keeps the canonical form: a byte equal to what an unlisted address reads as is not listed. -/
def Memory.write (m : Memory) (a : Word) (v : Byte) : Memory :=
  if v = Config.unlistedByte then Memory.erase m a.toNat
  else Memory.insert (Memory.erase m a.toNat) a.toNat v

/-- Every address of the list is at least `lo` and below 2^16, they strictly rise, and no entry is what an unlisted
address reads as. -/
def Memory.wfFrom : Nat → Memory → Bool
  | _, [] => true
  | lo, (k, b) :: rest =>
    decide (lo ≤ k) && decide (k < 65536) && (b != Config.unlistedByte) && Memory.wfFrom (k + 1) rest

/-- The canonical form of the memory list. -/
def Memory.wf (m : Memory) : Bool := Memory.wfFrom 0 m

/-- `write16` of the memory contract: low byte, then high byte (R53). No step uses it. -/
def Memory.write16 (m : Memory) (a v : Word) : Memory :=
  Memory.write (Memory.write m a (lo8 v)) (a + 1) (hi8 v)

/-- Bytes written from an address upwards. -/
def Memory.writeFrom : Memory → Word → List Byte → Memory
  | m, _, [] => m
  | m, a, b :: rest => Memory.writeFrom (Memory.write m a b) (a + 1) rest

/-- `zext_16(v)` (R7). -/
def zext16 (b : Byte) : Word := b.setWidth 16

/-- `sext_16(v)` (R7). -/
def sext16 (b : Byte) : Word := b.signExtend 16

/-- `emit e`: output events, after those already made. -/
def State.emit (es : List Event) (s : State) : State :=
  { s with trace := s.trace ++ es }

/-- `MemRead(a, 1)` (R51): the byte and the state with the access recorded (R58). A read has no other effect. -/
def State.memRead (a : Word) (s : State) : Byte × State :=
  (Memory.read s.mem a, s.emit [.read a])

/-- `MemWrite(a, 1, v)` (R51), recorded (R58). -/
def State.memWrite (a : Word) (v : Byte) (s : State) : State :=
  { s with mem := Memory.write s.mem a v, trace := s.trace ++ [.write a v] }

/-- `Read16(a)` (R52): little-endian, low byte first, the second address wraps mod 2^16. -/
def State.read16 (a : Word) (s : State) : Word × State :=
  let lo := s.memRead a
  let hi := lo.2.memRead (a + 1)
  (joinBytes lo.1 hi.1, hi.2)

/-- `0x0100 + SP`: the stack byte an offset designates (R23, R59). -/
def stackAddr (sp : Byte) : Word := 0x0100 + zext16 sp

/-- `Push(v)` (R61): write, then decrement. -/
def State.push (v : Byte) (s : State) : State :=
  let t := s.memWrite (stackAddr s.sp) v
  { t with sp := t.sp - 1 }

/-- `Pull()` (R62): increment, then read. -/
def State.pull (s : State) : Byte × State :=
  State.memRead (stackAddr (s.sp + 1)) { s with sp := s.sp + 1 }

/-- `Push(hi8(w)); Push(lo8(w))`: how JSR, BRK and interrupt service save a PC (R221, R224, R276). -/
def State.pushWord (w : Word) (s : State) : State :=
  (s.push (hi8 w)).push (lo8 w)

/-- `lo = Pull(); hi = Pull()`: how RTS and RTI take one back (R222, R223). -/
def State.pullWord (s : State) : Word × State :=
  let lo := s.pull
  let hi := lo.2.pull
  (joinBytes lo.1 hi.1, hi.2)

/-- The PC advance by `len`, before the operation (R101), mod 2^16 (R56). -/
def State.advance (len : Word) (s : State) : State :=
  { s with pc := s.pc + len }

/-- `EmitTicks(cost)` (R288): per cycle the counter goes up by one, then one tick event is emitted. -/
def State.emitTicks : Nat → State → State
  | 0, s => s
  | k + 1, s => State.emitTicks k { s with cycles := s.cycles + 1, trace := s.trace ++ [.tick (s.cycles + 1)] }

/-- Taking an interrupt, the one operation behind BRK (R224), NMI and IRQ (R276): PC high, PC low and the given status
byte are pushed, I is set, PC comes from the vector. No other flag changes (92_eei_decisions.md D24). -/
def State.enterInterrupt (vector : Word) (status : Byte) (s : State) : State :=
  let pushed := (s.pushWord s.pc).push status
  let target := State.read16 vector { pushed with i := true }
  { target.2 with pc := target.1 }

/-- Returning from one, RTI (R223): status, then PC with no adjustment. -/
def State.returnFromInterrupt (s : State) : State :=
  let status := s.pull
  let target := (statusWrite status.1 status.2).pullWord
  { target.2 with pc := target.1 }

/-- The NMI vector (R59, R277). -/
def nmiVector : Word := 0xFFFA

/-- The reset vector (R59, R310). -/
def resetVector : Word := 0xFFFC

/-- The vector IRQ and BRK share (R59, R278). -/
def irqVector : Word := 0xFFFE

/-- The status byte an NMI or IRQ service pushes: bit 4 forced to 0 (R276). -/
def serviceStatus (s : State) : Byte := statusRead s &&& ~~~0x10

/-- NMI service (R276, R277): it also clears a pending IRQ. -/
def State.serviceNmi (s : State) : State :=
  State.emitTicks 7 { s.enterInterrupt nmiVector (serviceStatus s) with nmiPending := false, irqPending := false }

/-- IRQ service (R276, R278). -/
def State.serviceIrq (s : State) : State :=
  State.emitTicks 7 { s.enterInterrupt irqVector (serviceStatus s) with irqPending := false }

/-- The reset sequence (R310): three suppressed pushes write nothing, the counter restarts, every latch is cleared. -/
def State.serviceReset (s : State) : State :=
  let target := State.read16 resetVector { s with sp := s.sp - 3, i := true }
  State.emitTicks 7
    { target.2 with pc := target.1, cycles := 0, resetPending := false, halted := false,
                    nmiPending := false, irqPending := false }

/-- The halted step (R272): NMI and IRQ requests are dropped, nothing else happens. -/
def State.haltedStep (s : State) : State :=
  { s with nmiPending := false, irqPending := false }

/-- A new activation begins: its trace is empty (R58; log entry 4). -/
def State.beginStep (s : State) : State :=
  { s with trace := [] }

/-- The three staging reads of every instruction step (R82). -/
def State.stage (s : State) : State :=
  let b0 := s.memRead s.pc
  let b1 := b0.2.memRead (s.pc + 1)
  let b2 := b1.2.memRead (s.pc + 2)
  { b2.2 with op := b0.1, data := b1.1, address := joinBytes b1.1 b2.1 }

/-- The instruction the staged latches hold (R84). -/
def State.stagedInstr (s : State) : Instr :=
  decodeStaged s.op s.data s.address

/-- The five branches of a step (R270). -/
inductive StepBranch where
  | reset
  | halted
  | nmi
  | irq
  | instruction
  deriving DecidableEq, Repr

/-- The priority of R270, read from the state at the start of the step (R271 to R275, R284). -/
def State.stepBranch (s : State) : StepBranch :=
  if s.resetPending then .reset
  else if s.halted then .halted
  else if s.nmiPending then .nmi
  else if s.irqPending && !s.i then .irq
  else .instruction

/-- The state with `bytes` at the program counter and no request that keeps the next step from being an instruction
step (R270): what the host's `withFetchWord` needs (log entry 6). -/
def State.readyToFetch (bytes : List Byte) (s : State) : State :=
  { s with mem := Memory.writeFrom s.mem s.pc bytes, resetPending := false, halted := false,
           nmiPending := false, irqPending := s.irqPending && s.i }

end Sys2Proof.Machine
end

