-- ==== Sys2Proof/Machine/Operands.lean ====
section
/-! DEFINITION. The addressing-mode resolver (40_addressing.md R103 to R119), its lengths (R104 to R116) and base
costs (R120), and the instruction shapes built on it: read, store, read-modify-write, implied, branch (R100). -/

namespace Sys2Proof.Machine

/-- `PageCross(a, b)` (R103). -/
def pageCross (a b : Word) : Bool := hi8 a != hi8 b

/-- `Ptr16(p)` (R111): `Read16(p)`, or with `zpPointerWrap` the high byte from `(p + 1) & 0xFF`. -/
def State.ptr16 (wrap : Bool) (p : Byte) (s : State) : Word × State :=
  if wrap then
    let lo := s.memRead (zext16 p)
    let hi := lo.2.memRead (zext16 (p + 1))
    (joinBytes lo.1 hi.1, hi.2)
  else s.read16 (zext16 p)

/-- What resolving a memory mode gives (R100): the effective address, whether a page was crossed, and the state after
its pointer reads. -/
structure Resolved where
  ea    : Word
  cross : Bool
  st    : State
  deriving DecidableEq, Repr

/-- The eight memory modes (R105 to R112). -/
def State.resolve (m : MemMode) (s : State) : Resolved :=
  match m with
  | .zp d => ⟨zext16 d, false, s⟩
  | .zpx d => ⟨zext16 (d + s.x), false, s⟩
  | .zpy d => ⟨zext16 (d + s.y), false, s⟩
  | .abs a => ⟨a, false, s⟩
  | .absx a => ⟨a + zext16 s.x, pageCross (a + zext16 s.x) a, s⟩
  | .absy a => ⟨a + zext16 s.y, pageCross (a + zext16 s.y) a, s⟩
  | .indx d =>
    let p := s.ptr16 Config.zpPointerWrap (d + s.x)
    ⟨p.1, false, p.2⟩
  | .indy d =>
    let p := s.ptr16 Config.zpPointerWrap d
    ⟨p.1 + zext16 s.y, pageCross (p.1 + zext16 s.y) p.1, p.2⟩

/-- A loaded operand: its value `M`, whether a page was crossed, and the state after the reads. -/
structure Loaded where
  value : Byte
  cross : Bool
  st    : State
  deriving DecidableEq, Repr

/-- `M = MemRead(EA, 1)` after the mode's pointer reads (R118). -/
def State.loadMem (m : MemMode) (s : State) : Loaded :=
  let r := s.resolve m
  let b := r.st.memRead r.ea
  ⟨b.1, r.cross, b.2⟩

/-- `Load(mode)` of a read-class instruction (R104, R118). -/
def State.load (src : Src) (s : State) : Loaded :=
  match src with
  | .imm v => ⟨v, false, s⟩
  | .mem m => s.loadMem m

/-- The length of each memory mode (R105 to R112). -/
def memLen : MemMode → Word
  | .zp _ | .zpx _ | .zpy _ | .indx _ | .indy _ => 2
  | .abs _ | .absx _ | .absy _ => 3

def srcLen : Src → Word
  | .imm _ => 2
  | .mem m => memLen m

def dstLen : Dst → Word
  | .acc => 1
  | .mem m => memLen m

/-- Base cost of the read class (R120). -/
def readCycles : Src → Nat
  | .imm _ => 2
  | .mem (.zp _) => 3
  | .mem (.zpx _) | .mem (.zpy _) => 4
  | .mem (.abs _) | .mem (.absx _) | .mem (.absy _) => 4
  | .mem (.indx _) => 6
  | .mem (.indy _) => 5

/-- Cost of the store class (R120): fixed, never with a penalty (R117). -/
def storeCycles : MemMode → Nat
  | .zp _ => 3
  | .zpx _ | .zpy _ | .abs _ => 4
  | .absx _ | .absy _ => 5
  | .indx _ | .indy _ => 6

/-- Cost of the read-modify-write class (R120): fixed, never with a penalty (R117). The class has no ZPY, ABSY, INDX
or INDY form: the figures of those rows are the model's filler for terms no opcode denotes (log entry 8). -/
def rmwCycles : Dst → Nat
  | .acc => 2
  | .mem (.zp _) => 5
  | .mem (.zpx _) | .mem (.abs _) => 6
  | .mem (.absx _) => 7
  | .mem (.zpy _) => 6
  | .mem (.absy _) => 7
  | .mem (.indx _) | .mem (.indy _) => 8

/-- A read-class instruction: load, act on the operand, charge the base cost and the page-cross penalty (R100, R117). -/
def readOp (src : Src) (act : Byte → State → State) (s : State) : Host.Outcome State Fault Refusal :=
  let m := (s.advance (srcLen src)).load src
  .next ((act m.value m.st).emitTicks (readCycles src + m.cross.toNat))

/-- A store-class instruction: one write of `EA`, no read of it (R133 to R135). -/
def storeOp (m : MemMode) (value : Byte) (s : State) : Host.Outcome State Fault Refusal :=
  let r := (s.advance (memLen m)).resolve m
  .next ((r.st.memWrite r.ea value).emitTicks (storeCycles m))

/-- A read-modify-write instruction: one read and one write of the same place (R119), then the flags from the operand
and the result. -/
def rmwOp (dst : Dst) (result : Byte → Byte) (flags : Byte → Byte → State → State) (s : State) :
    Host.Outcome State Fault Refusal :=
  match dst with
  | .acc =>
    let t := s.advance 1
    .next ((flags t.a (result t.a) { t with a := result t.a }).emitTicks (rmwCycles .acc))
  | .mem m =>
    let r := (s.advance (memLen m)).resolve m
    let b := r.st.memRead r.ea
    .next ((flags b.1 (result b.1) (b.2.memWrite r.ea (result b.1))).emitTicks (rmwCycles (.mem m)))

/-- A one-byte implied instruction (R114). -/
def implied (cycles : Nat) (act : State → State) (s : State) : Host.Outcome State Fault Refusal :=
  .next ((act (s.advance 1)).emitTicks cycles)

/-- The target of a branch (R115), from the address after it. -/
def branchTarget (pcNext : Word) (off : Byte) : Word := pcNext + sext16 off

/-- `Branch(cond)` (R210): 2 cycles, 3 taken, 4 taken to another page than that of `PCnext`. -/
def branch (cond : Bool) (off : Byte) (s : State) : Host.Outcome State Fault Refusal :=
  let t := s.advance 2
  let target := branchTarget t.pc off
  if cond then .next (State.emitTicks (2 + 1 + (pageCross target t.pc).toNat) { t with pc := target })
  else .next (t.emitTicks 2)

end Sys2Proof.Machine
end

