-- ==== Sys2Proof/Machine/Arith.lean ====
section
/-! DEFINITION. Arithmetic, compare, increment and decrement (42_arith.md R164 to R175). -/

namespace Sys2Proof.Machine

/-- ADC (R164). -/
def execAdc (src : Src) (s : State) : Host.Outcome State Fault Refusal :=
  readOp src (fun m t => putAlu (adcResult t.d t.a m t.c) t) s

/-- SBC (R165). -/
def execSbc (src : Src) (s : State) : Host.Outcome State Fault Refusal :=
  readOp src (fun m t => putAlu (sbcResult t.d t.a m t.c) t) s

/-- CMP (R167). -/
def execCmp (src : Src) (s : State) : Host.Outcome State Fault Refusal :=
  readOp src (fun m t => compareFlags t.a m t) s

/-- CPX (R168). -/
def execCpx (src : Src) (s : State) : Host.Outcome State Fault Refusal :=
  readOp src (fun m t => compareFlags t.x m t) s

/-- CPY (R169). -/
def execCpy (src : Src) (s : State) : Host.Outcome State Fault Refusal :=
  readOp src (fun m t => compareFlags t.y m t) s

/-- INC (R170). -/
def execInc (dst : MemMode) (s : State) : Host.Outcome State Fault Refusal :=
  rmwOp (.mem dst) (· + 1) (fun _ r t => setZN r t) s

/-- DEC (R171). -/
def execDec (dst : MemMode) (s : State) : Host.Outcome State Fault Refusal :=
  rmwOp (.mem dst) (· - 1) (fun _ r t => setZN r t) s

/-- INX (R172). -/
def execInx (s : State) : Host.Outcome State Fault Refusal :=
  implied 2 (fun t => setZN (t.x + 1) { t with x := t.x + 1 }) s

/-- INY (R173). -/
def execIny (s : State) : Host.Outcome State Fault Refusal :=
  implied 2 (fun t => setZN (t.y + 1) { t with y := t.y + 1 }) s

/-- DEX (R174). -/
def execDex (s : State) : Host.Outcome State Fault Refusal :=
  implied 2 (fun t => setZN (t.x - 1) { t with x := t.x - 1 }) s

/-- DEY (R175). -/
def execDey (s : State) : Host.Outcome State Fault Refusal :=
  implied 2 (fun t => setZN (t.y - 1) { t with y := t.y - 1 }) s

end Sys2Proof.Machine
end

