-- ==== Sys2Proof/Machine/Control.lean ====
section
/-! DEFINITION. Branches, jumps, calls, returns and BRK (44_control.md R210 to R224). -/

namespace Sys2Proof.Machine

/-- BCC (R211). -/
def execBcc (off : Byte) (s : State) : Host.Outcome State Fault Refusal := branch (!s.c) off s

/-- BCS (R212). -/
def execBcs (off : Byte) (s : State) : Host.Outcome State Fault Refusal := branch s.c off s

/-- BEQ (R213). -/
def execBeq (off : Byte) (s : State) : Host.Outcome State Fault Refusal := branch s.z off s

/-- BNE (R214). -/
def execBne (off : Byte) (s : State) : Host.Outcome State Fault Refusal := branch (!s.z) off s

/-- BMI (R215). -/
def execBmi (off : Byte) (s : State) : Host.Outcome State Fault Refusal := branch s.n off s

/-- BPL (R216). -/
def execBpl (off : Byte) (s : State) : Host.Outcome State Fault Refusal := branch (!s.n) off s

/-- BVC (R217). -/
def execBvc (off : Byte) (s : State) : Host.Outcome State Fault Refusal := branch (!s.v) off s

/-- BVS (R218). -/
def execBvs (off : Byte) (s : State) : Host.Outcome State Fault Refusal := branch s.v off s

/-- JMP (R219, R220). The indirect pointer is a plain `Read16`, with no page-wrap (R116). -/
def execJmp (target : JmpTarget) (s : State) : Host.Outcome State Fault Refusal :=
  match target with
  | .abs a => .next (State.emitTicks 3 { s.advance 3 with pc := a })
  | .ind p =>
    let r := (s.advance 3).read16 p
    .next (State.emitTicks 5 { r.2 with pc := r.1 })

/-- JSR (R221): the pushed address is `PCnext - 1`, the last byte of the JSR. -/
def execJsr (target : Word) (s : State) : Host.Outcome State Fault Refusal :=
  let t := s.advance 3
  .next (State.emitTicks 6 { t.pushWord (t.pc - 1) with pc := target })

/-- RTS (R222). -/
def execRts (s : State) : Host.Outcome State Fault Refusal :=
  implied 6 (fun t => { t.pullWord.2 with pc := t.pullWord.1 + 1 }) s

/-- RTI (R223). -/
def execRti (s : State) : Host.Outcome State Fault Refusal :=
  implied 6 State.returnFromInterrupt s

/-- BRK (R224): two bytes long, the signature byte skipped. The pushed status has bit 4 set. -/
def execBrk (s : State) : Host.Outcome State Fault Refusal :=
  let t := s.advance 2
  .next ((t.enterInterrupt irqVector (statusRead t)).emitTicks 7)

end Sys2Proof.Machine
end

