-- ==== Sys2Proof/Machine/Illegal.lean ====
section
/-! DEFINITION. ANC, KIL and the fail-soft no-op (47_illegal.md R260 to R262). -/

namespace Sys2Proof.Machine

/-- ANC (R260): both encodings behave alike, so the opcode byte is not used. -/
def execAnc (_opcode imm : Byte) (s : State) : Host.Outcome State Fault Refusal :=
  readOp (.imm imm) (fun m t => { setZN (t.a &&& m) { t with a := t.a &&& m } with c := (t.a &&& m).getLsbD 7 }) s

/-- KIL (R261): the halt latch and nothing else. PC stays on the opcode and no cycle is charged. -/
def execKil (_opcode : Byte) (s : State) : Host.Outcome State Fault Refusal :=
  .next { s with halted := true }

/-- The fail-soft no-op (R262): one diagnostic event, then a two-cycle, one-byte no-op. -/
def execFailsoft (opcode : Byte) (s : State) : Host.Outcome State Fault Refusal :=
  implied 2 (fun t => t.emit [.diagUnknown opcode]) s

end Sys2Proof.Machine
end

