-- ==== Sys2Proof/Machine/LoadStore.lean ====
section
/-! DEFINITION. Loads, stores and register transfers (41_load_store.md R130 to R141). -/

namespace Sys2Proof.Machine

/-- LDA (R130). -/
def execLda (src : Src) (s : State) : Host.Outcome State Fault Refusal :=
  readOp src (fun m t => setZN m { t with a := m }) s

/-- LDX (R131). -/
def execLdx (src : Src) (s : State) : Host.Outcome State Fault Refusal :=
  readOp src (fun m t => setZN m { t with x := m }) s

/-- LDY (R132). -/
def execLdy (src : Src) (s : State) : Host.Outcome State Fault Refusal :=
  readOp src (fun m t => setZN m { t with y := m }) s

/-- STA (R133). -/
def execSta (dst : MemMode) (s : State) : Host.Outcome State Fault Refusal :=
  storeOp dst s.a s

/-- STX (R134). -/
def execStx (dst : MemMode) (s : State) : Host.Outcome State Fault Refusal :=
  storeOp dst s.x s

/-- STY (R135). -/
def execSty (dst : MemMode) (s : State) : Host.Outcome State Fault Refusal :=
  storeOp dst s.y s

/-- TAX (R136). -/
def execTax (s : State) : Host.Outcome State Fault Refusal :=
  implied 2 (fun t => setZN t.a { t with x := t.a }) s

/-- TAY (R137). -/
def execTay (s : State) : Host.Outcome State Fault Refusal :=
  implied 2 (fun t => setZN t.a { t with y := t.a }) s

/-- TXA (R138). -/
def execTxa (s : State) : Host.Outcome State Fault Refusal :=
  implied 2 (fun t => setZN t.x { t with a := t.x }) s

/-- TYA (R139). -/
def execTya (s : State) : Host.Outcome State Fault Refusal :=
  implied 2 (fun t => setZN t.y { t with a := t.y }) s

/-- TSX (R140). -/
def execTsx (s : State) : Host.Outcome State Fault Refusal :=
  implied 2 (fun t => setZN t.sp { t with x := t.sp }) s

/-- TXS (R141): no flag changes. -/
def execTxs (s : State) : Host.Outcome State Fault Refusal :=
  implied 2 (fun t => { t with sp := t.x }) s

end Sys2Proof.Machine
end

