-- ==== Sys2Proof/Machine/Logic.lean ====
section
/-! DEFINITION. Logic, bit test, shifts and rotates (43_logic_shift.md R190 to R197). -/

namespace Sys2Proof.Machine

/-- AND (R190). -/
def execAnd (src : Src) (s : State) : Host.Outcome State Fault Refusal :=
  readOp src (fun m t => setZN (t.a &&& m) { t with a := t.a &&& m }) s

/-- ORA (R191). -/
def execOra (src : Src) (s : State) : Host.Outcome State Fault Refusal :=
  readOp src (fun m t => setZN (t.a ||| m) { t with a := t.a ||| m }) s

/-- EOR (R192). -/
def execEor (src : Src) (s : State) : Host.Outcome State Fault Refusal :=
  readOp src (fun m t => setZN (t.a ^^^ m) { t with a := t.a ^^^ m }) s

/-- BIT (R193). -/
def execBit (src : MemMode) (s : State) : Host.Outcome State Fault Refusal :=
  readOp (.mem src) bitTest s

/-- ASL (R194). -/
def execAsl (dst : Dst) (s : State) : Host.Outcome State Fault Refusal :=
  rmwOp dst shiftLeft (fun m r t => shiftFlags (m.getLsbD 7) r t) s

/-- LSR (R195). -/
def execLsr (dst : Dst) (s : State) : Host.Outcome State Fault Refusal :=
  rmwOp dst shiftRight (fun m r t => shiftFlags (m.getLsbD 0) r t) s

/-- ROL (R196). -/
def execRol (dst : Dst) (s : State) : Host.Outcome State Fault Refusal :=
  rmwOp dst (rotateLeft s.c) (fun m r t => shiftFlags (m.getLsbD 7) r t) s

/-- ROR (R197). -/
def execRor (dst : Dst) (s : State) : Host.Outcome State Fault Refusal :=
  rmwOp dst (rotateRight s.c) (fun m r t => shiftFlags (m.getLsbD 0) r t) s

end Sys2Proof.Machine
end

