-- ==== Sys2Proof/Machine/StackFlags.lean ====
section
/-! DEFINITION. Stack instructions, flag instructions and NOP (45_stack_flags.md R240 to R251). -/

namespace Sys2Proof.Machine

/-- PHA (R240). -/
def execPha (s : State) : Host.Outcome State Fault Refusal :=
  implied 3 (fun t => t.push t.a) s

/-- PHP (R241): bits 4 and 5 of the pushed byte are 1. -/
def execPhp (s : State) : Host.Outcome State Fault Refusal :=
  implied 3 (fun t => t.push (statusRead t)) s

/-- PLA (R242). -/
def execPla (s : State) : Host.Outcome State Fault Refusal :=
  implied 4 (fun t => setZN t.pull.1 { t.pull.2 with a := t.pull.1 }) s

/-- PLP (R243). -/
def execPlp (s : State) : Host.Outcome State Fault Refusal :=
  implied 4 (fun t => statusWrite t.pull.1 t.pull.2) s

/-- CLC (R244). -/
def execClc (s : State) : Host.Outcome State Fault Refusal := implied 2 (fun t => { t with c := false }) s

/-- SEC (R245). -/
def execSec (s : State) : Host.Outcome State Fault Refusal := implied 2 (fun t => { t with c := true }) s

/-- CLI (R246). -/
def execCli (s : State) : Host.Outcome State Fault Refusal := implied 2 (fun t => { t with i := false }) s

/-- SEI (R247). -/
def execSei (s : State) : Host.Outcome State Fault Refusal := implied 2 (fun t => { t with i := true }) s

/-- CLD (R248). -/
def execCld (s : State) : Host.Outcome State Fault Refusal := implied 2 (fun t => { t with d := false }) s

/-- SED (R249). -/
def execSed (s : State) : Host.Outcome State Fault Refusal := implied 2 (fun t => { t with d := true }) s

/-- CLV (R250). -/
def execClv (s : State) : Host.Outcome State Fault Refusal := implied 2 (fun t => { t with v := false }) s

/-- NOP (R251). -/
def execNop (s : State) : Host.Outcome State Fault Refusal := implied 2 (fun t => t) s

end Sys2Proof.Machine
end

