-- ==== Sys2Proof/Machine/Step.lean ====
section
/-! DEFINITION. One activation of the `step` input (60_exceptions.md R270), and the host's way to place an instruction
where the next step fetches it. -/

namespace Sys2Proof.Machine

/-- `step` (R270): exactly one branch runs, chosen from the state at the start. -/
def step (s : State) : Host.Outcome State Fault Refusal :=
  match s.stepBranch with
  | .reset => .next s.beginStep.serviceReset
  | .halted => .next s.beginStep.haltedStep
  | .nmi => .next s.beginStep.serviceNmi
  | .irq => .next s.beginStep.serviceIrq
  | .instruction => exec s.beginStep.stage.stagedInstr s.beginStep.stage

/-- `s` with the table word's three bytes at the program counter, and no request in the way of the fetch (log entry 6). -/
def State.withFetchWord (s : State) (nbits w : Nat) : State :=
  let v := w % 2 ^ nbits
  s.readyToFetch [BitVec.ofNat 8 v, BitVec.ofNat 8 (v / 256), BitVec.ofNat 8 (v / 65536)]

end Sys2Proof.Machine
end

