-- ==== Sys2Proof/Machine/HostPorts.lean ====
section
/-! DEFINITION. The ports of 60_exceptions.md R290 other than the memory port: the three requests (R279), `jump_req`
(R291), the observation (R292, 10_state.md R42), the rule on re-entrant calls (R289, R319), and the memory's own `load`
(20_memory.md R60). -/

namespace Sys2Proof.Machine

/-- `req_reset` (R279): setting a latch already set changes nothing. -/
def State.reqReset (s : State) : State := { s with resetPending := true }

/-- `req_nmi` (R279). -/
def State.reqNmi (s : State) : State := { s with nmiPending := true }

/-- `req_irq` (R279). -/
def State.reqIrq (s : State) : State := { s with irqPending := true }

/-- `jump_req(address)` (R291): PC becomes the word stored at `address`. It charges nothing and touches nothing else. -/
def State.jumpReq (address : Word) (s : State) : State :=
  let r := s.beginStep.read16 address
  { r.2 with pc := r.1 }

/-- A call of the host on one of the input ports (R290). -/
inductive HostCall where
  | step
  | reqReset
  | reqNmi
  | reqIrq
  | jumpReq (address : Word)
  deriving DecidableEq, Repr

/-- A host call between steps, or (`inStep`) from inside a tick handler. A handler runs after every effect of its step
(92_eei_decisions.md D20), so its requests act on the state at the step's end; a `step` or `jump_req` of its own is
refused (R289, R319; log entry 7). -/
def hostCall (inStep : Bool) (call : HostCall) (s : State) : Host.Outcome State Fault Refusal :=
  match call with
  | .reqReset => .next s.reqReset
  | .reqNmi => .next s.reqNmi
  | .reqIrq => .next s.reqIrq
  | .step => if inStep then .refused .reentrant else step s
  | .jumpReq address => if inStep then .refused .reentrant else .next (s.jumpReq address)

/-- What the host reads on `obs` (R42, R292). The request latches are not observable. -/
structure Observation where
  a : Byte
  x : Byte
  y : Byte
  sp : Byte
  pc : Word
  c : Bool
  z : Bool
  i : Bool
  d : Bool
  v : Bool
  n : Bool
  status : Byte
  cycles : Nat
  halted : Bool
  deriving DecidableEq, Repr

/-- The observation of a state (R292). -/
def State.observe (s : State) : Observation :=
  { a := s.a, x := s.x, y := s.y, sp := s.sp, pc := s.pc,
    c := s.c, z := s.z, i := s.i, d := s.d, v := s.v, n := s.n,
    status := statusRead s, cycles := s.cycles, halted := s.halted }

/-- How many bytes `load` copies (R60): `size`, or with `size = 0` the source's length, never past 0xFFFF and never
past the source's end (log entry 12). -/
def loadCount (source : List Byte) (base : Word) (size : Nat) : Nat :=
  min (if size = 0 then source.length else size) (65536 - base.toNat)

/-- `load(source, base, size)` (R60), which the host uses to place a program (R314). -/
def State.loadProgram (source : List Byte) (base : Word) (size : Nat) (s : State) : State :=
  { s with mem := Memory.writeFrom s.mem base (source.take (loadCount source base size)) }

end Sys2Proof.Machine
end

