-- ==== Sys2Proof/Safety.lean ====
section
/-! DEFINITION. The terms claims are stated in: the invariant of a run, its end (70_reset_and_hazards.md R322), the
tables of spec/opcode_table.json, the shape of an instruction rule ("encoding, effect, flags, cost" of 41 to 47), and
the relations between states that whole-machine claims use. -/

namespace Sys2Proof.Machine

/-- The state a step ends in, if it ends in one. -/
def answered : Host.Outcome State Fault Refusal → Option State
  | .next s => some s
  | .fault _ => none
  | .refused _ => none

/-- The invariant every step keeps: the memory is in its canonical form. -/
abbrev State.memOk (s : State) : Prop := s.mem.wf = true

/-- The end of a run (R322). -/
abbrev State.ended (s : State) : Prop := s.halted = true

/-- `k` tick events after a counter value (R288). -/
def tickEvents : Nat → Nat → List Event
  | _, 0 => []
  | c, k + 1 => .tick (c + 1) :: tickEvents (c + 1) k

/-- How a rule of 41 to 47 ends: PC is `pc`, `cost` cycles are charged, and the ticks follow the step's other events. -/
def ends (t : State) (pc : Word) (cost : Nat) (events : List Event) : State :=
  { t with pc := pc, cycles := t.cycles + cost, trace := events ++ tickEvents t.cycles cost }

/-- One encoding of a rule whose only operand access is a read: the byte `op` decodes to `mk` at the form given, and
that instruction, in every state, has the effect `effect M` on the registers and flags, advances PC by `len`, costs
`cycles` plus the page-cross cycle where `plus`, and leaves the rest, all of memory included, as it was. -/
def ReadRule (mk : Src → Instr) (effect : Byte → State → State)
    (op : Byte) (form : Byte → Word → Src) (len : Word) (cycles : Nat) (plus : Bool) : Prop :=
  ∀ (data : Byte) (addr : Word) (s : State),
    decodeStaged op data addr = mk (form data addr) ∧
    exec (mk (form data addr)) s =
      .next (ends (effect (s.load (form data addr)).value s) (s.pc + len)
        (cycles + if plus && (s.load (form data addr)).cross then 1 else 0) (s.load (form data addr)).st.trace)

/-- One encoding of a store: the byte `value` goes to the effective address, which no other byte of memory notices. -/
def StoreRule (mk : MemMode → Instr) (value : State → Byte)
    (op : Byte) (form : Byte → Word → MemMode) (len : Word) (cycles : Nat) : Prop :=
  ∀ (data : Byte) (addr : Word) (s : State),
    decodeStaged op data addr = mk (form data addr) ∧
    ∃ t, exec (mk (form data addr)) s = .next t ∧
      t = ends { s with mem := t.mem } (s.pc + len) cycles
        ((s.resolve (form data addr)).st.trace ++ [.write (s.resolve (form data addr)).ea (value s)]) ∧
      t.mem = s.mem.write (s.resolve (form data addr)).ea (value s) ∧
      ∀ b, t.mem.read b = if b = (s.resolve (form data addr)).ea then value s else s.mem.read b

/-- One memory encoding of a read-modify-write instruction (R119): `M` is read from the effective address, the result
is written back there once, `flags M` changes the flags, and no other byte of memory changes. -/
def RmwRule (mk : MemMode → Instr) (result : State → Byte → Byte) (flags : Byte → State → State)
    (op : Byte) (form : Byte → Word → MemMode) (len : Word) (cycles : Nat) : Prop :=
  ∀ (data : Byte) (addr : Word) (s : State),
    decodeStaged op data addr = mk (form data addr) ∧
    ∃ t, exec (mk (form data addr)) s = .next t ∧
      t = ends { flags (s.loadMem (form data addr)).value s with mem := t.mem } (s.pc + len) cycles
        ((s.loadMem (form data addr)).st.trace ++
          [.write (s.resolve (form data addr)).ea (result s (s.loadMem (form data addr)).value)]) ∧
      t.mem = s.mem.write (s.resolve (form data addr)).ea (result s (s.loadMem (form data addr)).value) ∧
      ∀ b, t.mem.read b =
        if b = (s.resolve (form data addr)).ea then result s (s.loadMem (form data addr)).value else s.mem.read b

/-- The one encoding of a one-byte instruction that touches no memory (R113, R114). -/
def ImpliedRule (i : Instr) (effect : State → State) (op : Byte) (cycles : Nat) : Prop :=
  ∀ (data : Byte) (addr : Word) (s : State),
    decodeStaged op data addr = i ∧ exec i s = .next (ends (effect s) (s.pc + 1) cycles s.trace)

/-- The one encoding of a branch (R210): the target and the pages are those of R115. -/
def BranchRule (mk : Byte → Instr) (cond : State → Bool) (op : Byte) : Prop :=
  ∀ (data : Byte) (addr : Word) (s : State),
    decodeStaged op data addr = mk data ∧
    exec (mk data) s = .next
      (if cond s then
        ends s (s.pc + 2 + sext16 data) (if hi8 (s.pc + 2 + sext16 data) = hi8 (s.pc + 2) then 3 else 4) s.trace
      else ends s (s.pc + 2) 2 s.trace)

/-- `Z <- (r = 0); N <- r[7]` as a change of the flags alone (R43). -/
def withZN (r : Byte) (s : State) : State := { s with z := decide (r = 0), n := decide (128 ≤ r.toNat) }

/-- A byte as the number two's complement reads it as (R159). -/
def signed (b : Byte) : Int := if 128 ≤ b.toNat then (b.toNat : Int) - 256 else b.toNat

/-- Both nibbles are decimal digits. -/
abbrev validBcd (b : Byte) : Prop := b.toNat / 16 ≤ 9 ∧ b.toNat % 16 ≤ 9

/-- The two-digit number of a valid BCD byte. -/
def bcdValue (b : Byte) : Nat := 10 * (b.toNat / 16) + b.toNat % 16

/-- Field `cycles` of the 256 rows of spec/opcode_table.json. -/
def tableCycles : List Nat :=
  [7, 6, 0, 2, 2, 3, 5, 2, 3, 2, 2, 2, 2, 4, 6, 2] ++
  [2, 5, 0, 2, 2, 4, 6, 2, 2, 4, 2, 2, 2, 4, 7, 2] ++
  [6, 6, 0, 2, 3, 3, 5, 2, 4, 2, 2, 2, 4, 4, 6, 2] ++
  [2, 5, 0, 2, 2, 4, 6, 2, 2, 4, 2, 2, 2, 4, 7, 2] ++
  [6, 6, 0, 2, 2, 3, 5, 2, 3, 2, 2, 2, 3, 4, 6, 2] ++
  [2, 5, 0, 2, 2, 4, 6, 2, 2, 4, 2, 2, 2, 4, 7, 2] ++
  [6, 6, 0, 2, 2, 3, 5, 2, 4, 2, 2, 2, 5, 4, 6, 2] ++
  [2, 5, 0, 2, 2, 4, 6, 2, 2, 4, 2, 2, 2, 4, 7, 2] ++
  [2, 6, 2, 2, 3, 3, 3, 2, 2, 2, 2, 2, 4, 4, 4, 2] ++
  [2, 6, 0, 2, 4, 4, 4, 2, 2, 5, 2, 2, 2, 5, 2, 2] ++
  [2, 6, 2, 2, 3, 3, 3, 2, 2, 2, 2, 2, 4, 4, 4, 2] ++
  [2, 5, 0, 2, 4, 4, 4, 2, 2, 4, 2, 2, 4, 4, 4, 2] ++
  [2, 6, 2, 2, 3, 3, 5, 2, 2, 2, 2, 2, 4, 4, 6, 2] ++
  [2, 5, 0, 2, 2, 4, 6, 2, 2, 4, 2, 2, 2, 4, 7, 2] ++
  [2, 6, 2, 2, 3, 3, 5, 2, 2, 2, 2, 2, 4, 4, 6, 2] ++
  [2, 5, 0, 2, 2, 4, 6, 2, 2, 4, 2, 2, 2, 4, 7, 2]

/-- Field `len` of the 256 rows of spec/opcode_table.json. -/
def tableLen : List Nat :=
  [2, 2, 0, 1, 1, 2, 2, 1, 1, 2, 1, 2, 1, 3, 3, 1] ++
  [2, 2, 0, 1, 1, 2, 2, 1, 1, 3, 1, 1, 1, 3, 3, 1] ++
  [3, 2, 0, 1, 2, 2, 2, 1, 1, 2, 1, 2, 3, 3, 3, 1] ++
  [2, 2, 0, 1, 1, 2, 2, 1, 1, 3, 1, 1, 1, 3, 3, 1] ++
  [1, 2, 0, 1, 1, 2, 2, 1, 1, 2, 1, 1, 3, 3, 3, 1] ++
  [2, 2, 0, 1, 1, 2, 2, 1, 1, 3, 1, 1, 1, 3, 3, 1] ++
  [1, 2, 0, 1, 1, 2, 2, 1, 1, 2, 1, 1, 3, 3, 3, 1] ++
  [2, 2, 0, 1, 1, 2, 2, 1, 1, 3, 1, 1, 1, 3, 3, 1] ++
  [1, 2, 1, 1, 2, 2, 2, 1, 1, 1, 1, 1, 3, 3, 3, 1] ++
  [2, 2, 0, 1, 2, 2, 2, 1, 1, 3, 1, 1, 1, 3, 1, 1] ++
  [2, 2, 2, 1, 2, 2, 2, 1, 1, 2, 1, 1, 3, 3, 3, 1] ++
  [2, 2, 0, 1, 2, 2, 2, 1, 1, 3, 1, 1, 3, 3, 3, 1] ++
  [2, 2, 1, 1, 2, 2, 2, 1, 1, 2, 1, 1, 3, 3, 3, 1] ++
  [2, 2, 0, 1, 1, 2, 2, 1, 1, 3, 1, 1, 1, 3, 3, 1] ++
  [2, 2, 1, 1, 2, 2, 2, 1, 1, 2, 1, 1, 3, 3, 3, 1] ++
  [2, 2, 0, 1, 1, 2, 2, 1, 1, 3, 1, 1, 1, 3, 3, 1]

/-- The rows of spec/opcode_table.json with `page_penalty` true: the pairs of R117. -/
def penaltyOpcodes : List Byte :=
  [0x11, 0x19, 0x1D, 0x31, 0x39, 0x3D, 0x51, 0x59, 0x5D, 0x71, 0x79, 0x7D] ++
  [0xB1, 0xB9, 0xBC, 0xBD, 0xBE, 0xD1, 0xD9, 0xDD, 0xF1, 0xF9, 0xFD]

/-- The opcodes that transfer control: the branches, JMP, JSR, RTS, RTI and BRK (44_control.md). -/
def transferOpcodes : List Byte :=
  [0x00, 0x10, 0x20, 0x30, 0x40, 0x4C, 0x50, 0x60, 0x6C, 0x70, 0x90, 0xB0, 0xD0, 0xF0]

/-- The `cross` output of the mode an instruction uses (R104 to R114). -/
def modeCross (i : Instr) (s : State) : Bool :=
  match i with
  | .lda p | .ldx p | .ldy p | .adc p | .sbc p | .cmp p | .cpx p | .cpy p | .and p | .ora p | .eor p => (s.load p).cross
  | .sta m | .stx m | .sty m | .inc m | .dec m | .bit m => (s.resolve m).cross
  | .asl (.mem m) | .lsr (.mem m) | .rol (.mem m) | .ror (.mem m) => (s.resolve m).cross
  | _ => false

/-- The charges of R210 beyond the base cost of a branch. -/
def branchCharge (i : Instr) (s : State) : Nat :=
  let taken (cond : Bool) (off : Byte) : Nat :=
    if cond then 1 + (if hi8 (s.pc + 2 + sext16 off) = hi8 (s.pc + 2) then 0 else 1) else 0
  match i with
  | .bcc o => taken (!s.c) o
  | .bcs o => taken s.c o
  | .beq o => taken s.z o
  | .bne o => taken (!s.z) o
  | .bmi o => taken s.n o
  | .bpl o => taken (!s.n) o
  | .bvc o => taken (!s.v) o
  | .bvs o => taken s.v o
  | _ => 0

/-- The number of tick events in a trace. -/
def tickCount (es : List Event) : Nat :=
  es.countP fun e => match e with
    | .tick _ => true
    | _ => false

/-- The memory after the `write` events of a trace, in order. -/
def replayWrites : List Event → Memory → Memory
  | [], m => m
  | .write a v :: es, m => replayWrites es (m.write a v)
  | _ :: es, m => replayWrites es m

/-- The two states agree on everything but what only counts or reports: the counter, the trace and the staging latches
(R38, R320). -/
abbrev sameButTiming (s t : State) : Prop :=
  s = { t with cycles := s.cycles, trace := s.trace, op := s.op, data := s.data, address := s.address }

/-- The next step is an instruction step (R275). -/
abbrev State.runs (s : State) : Prop := s.stepBranch = .instruction

end Sys2Proof.Machine
end

