-- ==== Sys2Proof/Certificates/Slice0/Obligations.lean ====
section
/-! DEFINITION. The statements for the provers, from the numbered rules of spec/. The shapes `ReadRule`, `StoreRule`,
`RmwRule`, `ImpliedRule` and `BranchRule` of Safety.lean say, for one encoding of an instruction rule, that the byte
decodes to the instruction and that the instruction ANSWERS the next state the rule gives, in every state, with
everything the rule does not name left as it was.

Opcode bytes, the cycle counts the source leaves out, the page-sensitive pairs, the stack order and which undocumented
bytes are implemented are the spec's decisions D7 to D11 (log entry 13). A statement whose clauses rest on a reading
the spec marks as its own has basis `derived` and names that decision. -/

open Sys2Proof Sys2Proof.Machine

/-! ## Encoding -/

/-- Every well-formed instruction encodes, and decoding its bytes, whatever follows them, gives it back (R80, R82 to
R85). No operand bit is dropped, at any value of any operand. -/
def Obligations.WellFormedRoundTrip : Prop :=
  ∀ i : Instr, i.wellFormed = true → ∀ rest : List Byte,
    ∃ bytes, encode i = some bytes ∧ decode (bytes ++ rest) = .ok (i, rest)

/-- Whatever three bytes are staged (R82), the instruction they decode to is well-formed, and its encoding is those
bytes as far as it has operands (R80): no byte is read that the encoding does not hold, and none is lost. -/
def Obligations.StagedBytesReencode : Prop :=
  ∀ b0 b1 b2 : Byte,
    (decodeStaged b0 b1 (joinBytes b1 b2)).wellFormed = true ∧
    encode (decodeStaged b0 b1 (joinBytes b1 b2)) =
      some ([b0, b1, b2].take ((decodeStaged b0 b1 (joinBytes b1 b2)).operandBytes.length + 1))

/-- R85: the decoder is total, the opcode byte alone selects the row, and the bytes fall into 151 documented, 2 ANC,
12 KIL and 91 fail-soft ones. -/
def Obligations.DecoderPartitionsTheBytes : Prop :=
  (∀ (op data : Byte) (addr : Word),
    (decodeStaged op data addr).opcode = some op ∧
    (op ∈ ancOpcodes ↔ decodeStaged op data addr = .anc op data) ∧
    (op ∈ kilOpcodes ↔ decodeStaged op data addr = .kil op) ∧
    (op ∈ failsoftOpcodes ↔ decodeStaged op data addr = .failsoft op)) ∧
  ((List.range 256).countP fun k =>
    !(ancOpcodes ++ kilOpcodes ++ failsoftOpcodes).contains (BitVec.ofNat 8 k)) = 151 ∧
  ancOpcodes.length = 2 ∧ kilOpcodes.length = 12 ∧ failsoftOpcodes.length = 91 ∧
  (ancOpcodes ++ kilOpcodes ++ failsoftOpcodes).Nodup

/-- Words written out from the encodings of one rule per family decode to the instruction they stand for. -/
def Obligations.SampleWordsDecode : Prop :=
  decode [0xB9, 0xF0, 0x12] = .ok (.lda (.mem (.absy 0x12F0)), []) ∧
  decode [0x96, 0xFF] = .ok (.stx (.zpy 0xFF), []) ∧
  decode [0x71, 0x40] = .ok (.adc (.mem (.indy 0x40)), []) ∧
  decode [0x7E, 0x00, 0x30] = .ok (.ror (.mem (.absx 0x3000)), []) ∧
  decode [0x6C, 0xFF, 0x02] = .ok (.jmp (.ind 0x02FF), []) ∧
  decode [0x70, 0x80] = .ok (.bvs 0x80, []) ∧
  decode [0x28] = .ok (.plp, []) ∧
  decode [0x2B, 0x80] = .ok (.anc 0x2B 0x80, []) ∧
  decode [0xF2] = .ok (.kil 0xF2, []) ∧
  decode [0x0C, 0x34, 0x12] = .ok (.failsoft 0x0C, [0x34, 0x12])

/-! ## Status view and flags -/

/-- R26, R27, R34: the packed view bit by bit, with bits 4 and 5 always 1, and its unpacking, which ignores them. -/
def Obligations.StatusViewPacksAndUnpacks : Prop :=
  ∀ (s : State) (b : Byte),
    ((statusRead s).getLsbD 0 = s.c ∧ (statusRead s).getLsbD 1 = s.z ∧ (statusRead s).getLsbD 2 = s.i ∧
      (statusRead s).getLsbD 3 = s.d ∧ (statusRead s).getLsbD 4 = true ∧ (statusRead s).getLsbD 5 = true ∧
      (statusRead s).getLsbD 6 = s.v ∧ (statusRead s).getLsbD 7 = s.n) ∧
    statusWrite b s = { s with c := b.getLsbD 0, z := b.getLsbD 1, i := b.getLsbD 2, d := b.getLsbD 3,
                               v := b.getLsbD 6, n := b.getLsbD 7 } ∧
    statusRead (statusWrite b s) = b ||| 0x30 ∧
    statusWrite (statusRead s) s = s

/-- R43: Z is whether the result is 0, N is its top bit, and nothing else changes. -/
def Obligations.ZeroNegativeHelper : Prop :=
  ∀ (r : Byte) (s : State), setZN r s = withZN r s

/-! ## Memory -/

/-- Two canonical memory lists that read alike at every address are the same list. -/
def Obligations.CanonicalMemoriesAreDetermined : Prop :=
  ∀ m m' : Memory, m.wf = true → m'.wf = true → (∀ a : Word, m.read a = m'.read a) → m = m'

/-- R52: `Read16` is little-endian, the second address wraps mod 2^16, the low byte is read first, and nothing but the
access record changes. -/
def Obligations.Read16IsLittleEndian : Prop :=
  ∀ (a : Word) (s : State),
    (s.read16 a).1.toNat =
      (s.mem.read a).toNat + 256 * (s.mem.read (BitVec.ofNat 16 ((a.toNat + 1) % 65536))).toNat ∧
    (s.read16 a).2 =
      { s with trace := s.trace ++ [.read a, .read (BitVec.ofNat 16 ((a.toNat + 1) % 65536))] }

/-- R61, R62: push writes at 0x0100 + SP and then decrements SP mod 256, pull increments and then reads; a pull undoes
a push. No byte but the one written changes. The order of write and decrement, and of increment and read, is the
spec's choice D7 (log entry 13). -/
def Obligations.StackPushesAndPulls : Prop :=
  ∀ (w : Byte) (s : State),
    (s.push w =
      { s with
        mem := s.mem.write (BitVec.ofNat 16 (0x0100 + s.sp.toNat)) w
        sp := BitVec.ofNat 8 ((s.sp.toNat + 255) % 256)
        trace := s.trace ++ [.write (BitVec.ofNat 16 (0x0100 + s.sp.toNat)) w] }) ∧
    (∀ b : Word, (s.push w).mem.read b =
      if b = BitVec.ofNat 16 (0x0100 + s.sp.toNat) then w else s.mem.read b) ∧
    s.pull =
      (s.mem.read (BitVec.ofNat 16 (0x0100 + (s.sp.toNat + 1) % 256)),
       { s with
         sp := BitVec.ofNat 8 ((s.sp.toNat + 1) % 256)
         trace := s.trace ++ [.read (BitVec.ofNat 16 (0x0100 + (s.sp.toNat + 1) % 256))] }) ∧
    (s.push w).pull.1 = w ∧ (s.push w).pull.2.sp = s.sp

/-- R60: `load` copies `size` bytes (0: all of the source), clamped to the end of the address space, from `base` up,
and no other byte of memory changes. A size beyond the source copies what there is (the model's choice, log entry
12). -/
def Obligations.LoadCopiesIntoMemory : Prop :=
  ∀ (src : List Byte) (base : Word) (size : Nat) (s : State),
    ∃ n, n = min (min (if size = 0 then src.length else size) (65536 - base.toNat)) src.length ∧
      (∀ b : Word, (s.loadProgram src base size).mem.read b =
        if base.toNat ≤ b.toNat ∧ b.toNat < base.toNat + n then src.getD (b.toNat - base.toNat) 0 else s.mem.read b) ∧
      s.loadProgram src base size = { s with mem := (s.loadProgram src base size).mem }

/-! ## Addressing modes -/

/-- R105, R106, R107: the zero-page modes, as sums mod 256, with their length, their missing page cross and no read
beyond the operand's own; only LDX and STX have a ZPY form. -/
def Obligations.ZeroPageModes : Prop :=
  ∀ (d : Byte) (s : State),
    ((s.resolve (.zp d)).ea.toNat = d.toNat ∧ (s.resolve (.zp d)).cross = false ∧ memLen (.zp d) = 2 ∧
      (s.resolve (.zp d)).st = s) ∧
    ((s.resolve (.zpx d)).ea.toNat = (d.toNat + s.x.toNat) % 256 ∧ (s.resolve (.zpx d)).cross = false ∧
      memLen (.zpx d) = 2 ∧ (s.resolve (.zpx d)).st = s) ∧
    ((s.resolve (.zpy d)).ea.toNat = (d.toNat + s.y.toNat) % 256 ∧ (s.resolve (.zpy d)).cross = false ∧
      memLen (.zpy d) = 2 ∧ (s.resolve (.zpy d)).st = s) ∧
    (([.lda (.mem (.zpy d)), .ldy (.mem (.zpy d)), .adc (.mem (.zpy d)), .sbc (.mem (.zpy d)),
        .cmp (.mem (.zpy d)), .cpx (.mem (.zpy d)), .cpy (.mem (.zpy d)), .and (.mem (.zpy d)),
        .ora (.mem (.zpy d)), .eor (.mem (.zpy d)), .sta (.zpy d), .sty (.zpy d), .inc (.zpy d), .dec (.zpy d),
        .bit (.zpy d), .asl (.mem (.zpy d)), .lsr (.mem (.zpy d)), .rol (.mem (.zpy d)),
        .ror (.mem (.zpy d))] : List Instr).all fun i => !i.wellFormed) = true ∧
    (Instr.ldx (.mem (.zpy d))).wellFormed = true ∧ (Instr.stx (.zpy d)).wellFormed = true

/-- R108, R109, R110, R103: the absolute modes, as sums mod 2^16; the page cross compares the high bytes of the sum and
of its un-indexed base. -/
def Obligations.AbsoluteModes : Prop :=
  ∀ (a : Word) (s : State),
    ((s.resolve (.abs a)).ea = a ∧ (s.resolve (.abs a)).cross = false ∧ memLen (.abs a) = 3 ∧
      (s.resolve (.abs a)).st = s) ∧
    ((s.resolve (.absx a)).ea.toNat = (a.toNat + s.x.toNat) % 65536 ∧
      ((s.resolve (.absx a)).cross = true ↔ ((a.toNat + s.x.toNat) % 65536) / 256 ≠ a.toNat / 256) ∧
      memLen (.absx a) = 3 ∧ (s.resolve (.absx a)).st = s) ∧
    ((s.resolve (.absy a)).ea.toNat = (a.toNat + s.y.toNat) % 65536 ∧
      ((s.resolve (.absy a)).cross = true ↔ ((a.toNat + s.y.toNat) % 65536) / 256 ≠ a.toNat / 256) ∧
      memLen (.absy a) = 3 ∧ (s.resolve (.absy a)).st = s)

/-- R111, R112: the indirect modes. `Ptr16(p)` under either value of `zpPointerWrap`; the model's value is `false`, so
the pointer at 0xFF takes its high byte from 0x0100. -/
def Obligations.IndirectModes : Prop :=
  ∀ (d : Byte) (s : State),
    ((s.ptr16 false d).1.toNat =
      (s.mem.read (BitVec.ofNat 16 d.toNat)).toNat + 256 * (s.mem.read (BitVec.ofNat 16 (d.toNat + 1))).toNat ∧
     (s.ptr16 false d).2 =
      { s with trace := s.trace ++ [.read (BitVec.ofNat 16 d.toNat), .read (BitVec.ofNat 16 (d.toNat + 1))] }) ∧
    ((s.ptr16 true d).1.toNat =
      (s.mem.read (BitVec.ofNat 16 d.toNat)).toNat +
        256 * (s.mem.read (BitVec.ofNat 16 ((d.toNat + 1) % 256))).toNat ∧
     (s.ptr16 true d).2 =
      { s with trace := s.trace ++
          [.read (BitVec.ofNat 16 d.toNat), .read (BitVec.ofNat 16 ((d.toNat + 1) % 256))] }) ∧
    ((s.resolve (.indx d)).ea = (s.ptr16 false (BitVec.ofNat 8 ((d.toNat + s.x.toNat) % 256))).1 ∧
      (s.resolve (.indx d)).st = (s.ptr16 false (BitVec.ofNat 8 ((d.toNat + s.x.toNat) % 256))).2 ∧
      (s.resolve (.indx d)).cross = false ∧ memLen (.indx d) = 2) ∧
    ((s.resolve (.indy d)).ea.toNat = ((s.ptr16 false d).1.toNat + s.y.toNat) % 65536 ∧
      (s.resolve (.indy d)).st = (s.ptr16 false d).2 ∧
      ((s.resolve (.indy d)).cross = true ↔
        (((s.ptr16 false d).1.toNat + s.y.toNat) % 65536) / 256 ≠ (s.ptr16 false d).1.toNat / 256) ∧
      memLen (.indy d) = 2)

/-- R104, R118: an immediate operand is the staged byte itself and costs no read; a memory operand is one read of the
effective address, after the mode's pointer reads. That there is no other read, and that the pointer reads come first,
are the spec's choices D18 and D19. -/
def Obligations.OperandLoads : Prop :=
  ∀ (v : Byte) (m : MemMode) (s : State),
    s.load (.imm v) = ⟨v, false, s⟩ ∧ srcLen (.imm v) = 2 ∧
    s.load (.mem m) = s.loadMem m ∧
    s.loadMem m =
      ⟨s.mem.read (s.resolve m).ea, (s.resolve m).cross,
        { s with trace := (s.resolve m).st.trace ++ [.read (s.resolve m).ea] }⟩

/-! ## The ALU -/

/-- R160: binary addition as exact arithmetic. The carry is the unsigned one. V says that the operands' sign bits agree
and differ from the result's, which is when the signed sum does not fit a byte. -/
def Obligations.BinaryAdditionLaw : Prop :=
  ∀ (a m : Byte) (c : Bool),
    (addBin a m c).r.toNat = (a.toNat + m.toNat + c.toNat) % 256 ∧
    ((addBin a m c).c = true ↔ a.toNat + m.toNat + c.toNat > 255) ∧
    ((addBin a m c).v = true ↔
      ((128 ≤ a.toNat ↔ 128 ≤ m.toNat) ∧ ¬(128 ≤ (addBin a m c).r.toNat ↔ 128 ≤ a.toNat))) ∧
    ((addBin a m c).v = true ↔ signed a + signed m + c.toNat < -128 ∨ signed a + signed m + c.toNat > 127) ∧
    ((addBin a m c).z = true ↔ (addBin a m c).r = 0) ∧
    ((addBin a m c).n = true ↔ 128 ≤ (addBin a m c).r.toNat)

/-- R162: binary subtraction with an inverted borrow: the difference mod 256, carry set when nothing is borrowed, and V
says that the signed difference does not fit a byte. -/
def Obligations.BinarySubtractionLaw : Prop :=
  ∀ (a m : Byte) (c : Bool),
    subBin a m c = addBin a (~~~m) c ∧
    ((subBin a m c).r.toNat : Int) = ((a.toNat : Int) - m.toNat - (1 - c.toNat)) % 256 ∧
    ((subBin a m c).c = true ↔ (a.toNat : Int) - m.toNat - (1 - c.toNat) ≥ 0) ∧
    ((subBin a m c).v = true ↔
      signed a - signed m - (1 - c.toNat) < -128 ∨ signed a - signed m - (1 - c.toNat) > 127)

/-- R161, with the combination `t` as the spec reads it (D16): decimal addition nibble by nibble, for every operand,
valid BCD or not. On valid BCD operands the result is the valid BCD sum mod 100 and the carry says that it reached
100. -/
def Obligations.DecimalAdditionLaw : Prop :=
  (∀ (a m : Byte) (c : Bool),
    let lo := a.toNat % 16 + m.toNat % 16 + c.toNat
    let hi := 16 * (a.toNat / 16) + 16 * (m.toNat / 16) + (if lo > 9 then 16 else 0)
    let t := 16 * (hi / 16 % 16) + lo % 16
    ((addDec a m c).c = true ↔ hi > 0x9F) ∧
    ((addDec a m c).z = true ↔ t = 0) ∧
    ((addDec a m c).n = true ↔ 128 ≤ t) ∧
    ((addDec a m c).v = true ↔ (128 ≤ a.toNat ↔ 128 ≤ m.toNat) ∧ ¬(128 ≤ t ↔ 128 ≤ a.toNat)) ∧
    (addDec a m c).r.toNat =
      16 * ((if hi > 0x9F then hi + 0x60 else hi) / 16 % 16) + (if lo > 9 then lo + 6 else lo) % 16) ∧
  (∀ (a m : Byte) (c : Bool), validBcd a → validBcd m →
    validBcd (addDec a m c).r ∧
    bcdValue (addDec a m c).r = (bcdValue a + bcdValue m + c.toNat) % 100 ∧
    ((addDec a m c).c = true ↔ bcdValue a + bcdValue m + c.toNat ≥ 100))

/-- R163, with the borrow bits as the spec reads them (D17): decimal subtraction nibble by nibble, for every operand;
its four flags are those of the binary subtraction. On valid BCD operands the result is the valid BCD difference mod
100 and the carry says that nothing was borrowed. -/
def Obligations.DecimalSubtractionLaw : Prop :=
  (∀ (a m : Byte) (c : Bool),
    let lo : Int := (a.toNat % 16 : Nat) + (15 - (m.toNat % 16 : Nat)) + c.toNat
    let hi : Int := 16 * (a.toNat / 16 : Nat) + (240 - 16 * (m.toNat / 16 : Nat)) + (if lo > 15 then 16 else 0)
    ((subDec a m c).c = true ↔ hi > 255) ∧
    ((subDec a m c).r.toNat : Int) =
      16 * ((if hi > 255 then hi else hi - 0x60) / 16 % 16) + (if lo > 15 then lo else lo - 6) % 16) ∧
  (∀ (a m : Byte) (c : Bool),
    (subDec a m c).c = (subBin a m c).c ∧ (subDec a m c).z = (subBin a m c).z ∧
    (subDec a m c).n = (subBin a m c).n ∧ (subDec a m c).v = (subBin a m c).v) ∧
  (∀ (a m : Byte) (c : Bool), validBcd a → validBcd m →
    validBcd (subDec a m c).r ∧
    (bcdValue (subDec a m c).r : Int) = ((bcdValue a : Int) - bcdValue m - (1 - c.toNat)) % 100 ∧
    ((subDec a m c).c = true ↔ (bcdValue a : Int) - bcdValue m - (1 - c.toNat) ≥ 0))

/-- R166: carry is the unsigned `register >= operand`, Z and N are of the difference mod 256, which is not stored; V, D
and everything else stay. -/
def Obligations.CompareLaw : Prop :=
  ∀ (reg m : Byte) (s : State),
    compareFlags reg m s =
      { s with
        c := decide (m.toNat ≤ reg.toNat)
        z := decide ((reg.toNat + 256 - m.toNat) % 256 = 0)
        n := decide (128 ≤ (reg.toNat + 256 - m.toNat) % 256) }

/-! ## Loads, stores, transfers -/

/-- R130, R131, R132: LDA, LDX and LDY in every encoding. -/
def Obligations.LoadRules : Prop :=
  (let lda := ReadRule .lda (fun m s => withZN m { s with a := m })
   lda 0xA9 (fun d _ => .imm d) 2 2 false ∧ lda 0xA5 (fun d _ => .mem (.zp d)) 2 3 false ∧
    lda 0xB5 (fun d _ => .mem (.zpx d)) 2 4 false ∧ lda 0xAD (fun _ w => .mem (.abs w)) 3 4 false ∧
    lda 0xBD (fun _ w => .mem (.absx w)) 3 4 true ∧ lda 0xB9 (fun _ w => .mem (.absy w)) 3 4 true ∧
    lda 0xA1 (fun d _ => .mem (.indx d)) 2 6 false ∧ lda 0xB1 (fun d _ => .mem (.indy d)) 2 5 true) ∧
  (let ldx := ReadRule .ldx (fun m s => withZN m { s with x := m })
   ldx 0xA2 (fun d _ => .imm d) 2 2 false ∧ ldx 0xA6 (fun d _ => .mem (.zp d)) 2 3 false ∧
    ldx 0xB6 (fun d _ => .mem (.zpy d)) 2 4 false ∧ ldx 0xAE (fun _ w => .mem (.abs w)) 3 4 false ∧
    ldx 0xBE (fun _ w => .mem (.absy w)) 3 4 true) ∧
  (let ldy := ReadRule .ldy (fun m s => withZN m { s with y := m })
   ldy 0xA0 (fun d _ => .imm d) 2 2 false ∧ ldy 0xA4 (fun d _ => .mem (.zp d)) 2 3 false ∧
    ldy 0xB4 (fun d _ => .mem (.zpx d)) 2 4 false ∧ ldy 0xAC (fun _ w => .mem (.abs w)) 3 4 false ∧
    ldy 0xBC (fun _ w => .mem (.absx w)) 3 4 true)

/-- R133, R134, R135: STA, STX and STY in every encoding. -/
def Obligations.StoreRules : Prop :=
  (let sta := StoreRule .sta State.a
   sta 0x85 (fun d _ => .zp d) 2 3 ∧ sta 0x95 (fun d _ => .zpx d) 2 4 ∧ sta 0x8D (fun _ w => .abs w) 3 4 ∧
    sta 0x9D (fun _ w => .absx w) 3 5 ∧ sta 0x99 (fun _ w => .absy w) 3 5 ∧
    sta 0x81 (fun d _ => .indx d) 2 6 ∧ sta 0x91 (fun d _ => .indy d) 2 6) ∧
  (let stx := StoreRule .stx State.x
   stx 0x86 (fun d _ => .zp d) 2 3 ∧ stx 0x96 (fun d _ => .zpy d) 2 4 ∧ stx 0x8E (fun _ w => .abs w) 3 4) ∧
  (let sty := StoreRule .sty State.y
   sty 0x84 (fun d _ => .zp d) 2 3 ∧ sty 0x94 (fun d _ => .zpx d) 2 4 ∧ sty 0x8C (fun _ w => .abs w) 3 4) ∧
  (∀ data addr, decodeStaged 0x89 data addr = .failsoft 0x89)

/-- R136 to R141: the six transfers; TXS changes no flag. -/
def Obligations.TransferRules : Prop :=
  ImpliedRule .tax (fun s => withZN s.a { s with x := s.a }) 0xAA 2 ∧
  ImpliedRule .tay (fun s => withZN s.a { s with y := s.a }) 0xA8 2 ∧
  ImpliedRule .txa (fun s => withZN s.x { s with a := s.x }) 0x8A 2 ∧
  ImpliedRule .tya (fun s => withZN s.y { s with a := s.y }) 0x98 2 ∧
  ImpliedRule .tsx (fun s => withZN s.sp { s with x := s.sp }) 0xBA 2 ∧
  ImpliedRule .txs (fun s => { s with sp := s.x }) 0x9A 2

/-! ## Arithmetic -/

/-- R164, R165: ADC and SBC in every encoding: the adder function that D selects, A and the flags C, Z, N, V. -/
def Obligations.AddAndSubtractRules : Prop :=
  (let put (t : AluResult) (s : State) : State := { s with a := t.r, c := t.c, z := t.z, n := t.n, v := t.v }
   let adc := ReadRule .adc (fun m s => put (if s.d then addDec s.a m s.c else addBin s.a m s.c) s)
   let sbc := ReadRule .sbc (fun m s => put (if s.d then subDec s.a m s.c else subBin s.a m s.c) s)
   (adc 0x69 (fun d _ => .imm d) 2 2 false ∧ adc 0x65 (fun d _ => .mem (.zp d)) 2 3 false ∧
     adc 0x75 (fun d _ => .mem (.zpx d)) 2 4 false ∧ adc 0x6D (fun _ w => .mem (.abs w)) 3 4 false ∧
     adc 0x7D (fun _ w => .mem (.absx w)) 3 4 true ∧ adc 0x79 (fun _ w => .mem (.absy w)) 3 4 true ∧
     adc 0x61 (fun d _ => .mem (.indx d)) 2 6 false ∧ adc 0x71 (fun d _ => .mem (.indy d)) 2 5 true) ∧
    (sbc 0xE9 (fun d _ => .imm d) 2 2 false ∧ sbc 0xE5 (fun d _ => .mem (.zp d)) 2 3 false ∧
     sbc 0xF5 (fun d _ => .mem (.zpx d)) 2 4 false ∧ sbc 0xED (fun _ w => .mem (.abs w)) 3 4 false ∧
     sbc 0xFD (fun _ w => .mem (.absx w)) 3 4 true ∧ sbc 0xF9 (fun _ w => .mem (.absy w)) 3 4 true ∧
     sbc 0xE1 (fun d _ => .mem (.indx d)) 2 6 false ∧ sbc 0xF1 (fun d _ => .mem (.indy d)) 2 5 true))

/-- R167, R168, R169: CMP, CPX and CPY in every encoding: the three flags of R166 and nothing else. -/
def Obligations.CompareRules : Prop :=
  (let cmpWith (reg m : Byte) (s : State) : State := withZN (reg - m) { s with c := decide (m.toNat ≤ reg.toNat) }
   let cmp := ReadRule .cmp (fun m s => cmpWith s.a m s)
   let cpx := ReadRule .cpx (fun m s => cmpWith s.x m s)
   let cpy := ReadRule .cpy (fun m s => cmpWith s.y m s)
   (cmp 0xC9 (fun d _ => .imm d) 2 2 false ∧ cmp 0xC5 (fun d _ => .mem (.zp d)) 2 3 false ∧
     cmp 0xD5 (fun d _ => .mem (.zpx d)) 2 4 false ∧ cmp 0xCD (fun _ w => .mem (.abs w)) 3 4 false ∧
     cmp 0xDD (fun _ w => .mem (.absx w)) 3 4 true ∧ cmp 0xD9 (fun _ w => .mem (.absy w)) 3 4 true ∧
     cmp 0xC1 (fun d _ => .mem (.indx d)) 2 6 false ∧ cmp 0xD1 (fun d _ => .mem (.indy d)) 2 5 true) ∧
    (cpx 0xE0 (fun d _ => .imm d) 2 2 false ∧ cpx 0xE4 (fun d _ => .mem (.zp d)) 2 3 false ∧
     cpx 0xEC (fun _ w => .mem (.abs w)) 3 4 false) ∧
    (cpy 0xC0 (fun d _ => .imm d) 2 2 false ∧ cpy 0xC4 (fun d _ => .mem (.zp d)) 2 3 false ∧
     cpy 0xCC (fun _ w => .mem (.abs w)) 3 4 false))

/-- R170 to R175: increments and decrements mod 256, on memory and on X and Y; C and V stay. -/
def Obligations.IncrementAndDecrementRules : Prop :=
  (let plus (m : Byte) : Byte := BitVec.ofNat 8 ((m.toNat + 1) % 256)
   let minus (m : Byte) : Byte := BitVec.ofNat 8 ((m.toNat + 255) % 256)
   let inc := RmwRule .inc (fun _ m => plus m) (fun m s => withZN (plus m) s)
   let dec := RmwRule .dec (fun _ m => minus m) (fun m s => withZN (minus m) s)
   (inc 0xE6 (fun d _ => .zp d) 2 5 ∧ inc 0xF6 (fun d _ => .zpx d) 2 6 ∧
     inc 0xEE (fun _ w => .abs w) 3 6 ∧ inc 0xFE (fun _ w => .absx w) 3 7) ∧
    (dec 0xC6 (fun d _ => .zp d) 2 5 ∧ dec 0xD6 (fun d _ => .zpx d) 2 6 ∧
     dec 0xCE (fun _ w => .abs w) 3 6 ∧ dec 0xDE (fun _ w => .absx w) 3 7) ∧
    ImpliedRule .inx (fun s => withZN (plus s.x) { s with x := plus s.x }) 0xE8 2 ∧
    ImpliedRule .iny (fun s => withZN (plus s.y) { s with y := plus s.y }) 0xC8 2 ∧
    ImpliedRule .dex (fun s => withZN (minus s.x) { s with x := minus s.x }) 0xCA 2 ∧
    ImpliedRule .dey (fun s => withZN (minus s.y) { s with y := minus s.y }) 0x88 2)

/-! ## Logic and shifts -/

/-- R190, R191, R192: AND, ORA and EOR in every encoding. -/
def Obligations.LogicRules : Prop :=
  (let land := ReadRule .and (fun m s => withZN (s.a &&& m) { s with a := s.a &&& m })
   let ora := ReadRule .ora (fun m s => withZN (s.a ||| m) { s with a := s.a ||| m })
   let eor := ReadRule .eor (fun m s => withZN (s.a ^^^ m) { s with a := s.a ^^^ m })
   (land 0x29 (fun d _ => .imm d) 2 2 false ∧ land 0x25 (fun d _ => .mem (.zp d)) 2 3 false ∧
     land 0x35 (fun d _ => .mem (.zpx d)) 2 4 false ∧ land 0x2D (fun _ w => .mem (.abs w)) 3 4 false ∧
     land 0x3D (fun _ w => .mem (.absx w)) 3 4 true ∧ land 0x39 (fun _ w => .mem (.absy w)) 3 4 true ∧
     land 0x21 (fun d _ => .mem (.indx d)) 2 6 false ∧ land 0x31 (fun d _ => .mem (.indy d)) 2 5 true) ∧
    (ora 0x09 (fun d _ => .imm d) 2 2 false ∧ ora 0x05 (fun d _ => .mem (.zp d)) 2 3 false ∧
     ora 0x15 (fun d _ => .mem (.zpx d)) 2 4 false ∧ ora 0x0D (fun _ w => .mem (.abs w)) 3 4 false ∧
     ora 0x1D (fun _ w => .mem (.absx w)) 3 4 true ∧ ora 0x19 (fun _ w => .mem (.absy w)) 3 4 true ∧
     ora 0x01 (fun d _ => .mem (.indx d)) 2 6 false ∧ ora 0x11 (fun d _ => .mem (.indy d)) 2 5 true) ∧
    (eor 0x49 (fun d _ => .imm d) 2 2 false ∧ eor 0x45 (fun d _ => .mem (.zp d)) 2 3 false ∧
     eor 0x55 (fun d _ => .mem (.zpx d)) 2 4 false ∧ eor 0x4D (fun _ w => .mem (.abs w)) 3 4 false ∧
     eor 0x5D (fun _ w => .mem (.absx w)) 3 4 true ∧ eor 0x59 (fun _ w => .mem (.absy w)) 3 4 true ∧
     eor 0x41 (fun d _ => .mem (.indx d)) 2 6 false ∧ eor 0x51 (fun d _ => .mem (.indy d)) 2 5 true))

/-- R193: BIT: Z of `A & M`, N and V from bits 7 and 6 of the memory byte, A and C unchanged. -/
def Obligations.BitTestRule : Prop :=
  (let bit (op : Byte) (form : Byte → Word → MemMode) (len : Word) (cycles : Nat) : Prop :=
    ∀ (data : Byte) (addr : Word) (s : State),
      decodeStaged op data addr = .bit (form data addr) ∧
      exec (.bit (form data addr)) s =
        .next (ends
          { s with
            z := decide (s.a &&& (s.loadMem (form data addr)).value = 0)
            n := decide (128 ≤ (s.loadMem (form data addr)).value.toNat)
            v := decide (64 ≤ (s.loadMem (form data addr)).value.toNat % 128) }
          (s.pc + len) cycles (s.loadMem (form data addr)).st.trace)
   bit 0x24 (fun d _ => .zp d) 2 3 ∧ bit 0x2C (fun _ w => .abs w) 3 4)

/-- R194, R195: ASL and LSR on A and on memory: C is the bit shifted out, Z and N are of the result. -/
def Obligations.ShiftRules : Prop :=
  (let left (m : Byte) : Byte := BitVec.ofNat 8 (2 * m.toNat % 256)
   let right (m : Byte) : Byte := BitVec.ofNat 8 (m.toNat / 2)
   let aslF (m : Byte) (s : State) : State := withZN (left m) { s with c := decide (128 ≤ m.toNat) }
   let lsrF (m : Byte) (s : State) : State := withZN (right m) { s with c := decide (m.toNat % 2 = 1) }
   let asl := RmwRule (fun m => .asl (.mem m)) (fun _ m => left m) aslF
   let lsr := RmwRule (fun m => .lsr (.mem m)) (fun _ m => right m) lsrF
   (ImpliedRule (.asl .acc) (fun s => aslF s.a { s with a := left s.a }) 0x0A 2 ∧
     asl 0x06 (fun d _ => .zp d) 2 5 ∧ asl 0x16 (fun d _ => .zpx d) 2 6 ∧
     asl 0x0E (fun _ w => .abs w) 3 6 ∧ asl 0x1E (fun _ w => .absx w) 3 7) ∧
    (ImpliedRule (.lsr .acc) (fun s => lsrF s.a { s with a := right s.a }) 0x4A 2 ∧
     lsr 0x46 (fun d _ => .zp d) 2 5 ∧ lsr 0x56 (fun d _ => .zpx d) 2 6 ∧
     lsr 0x4E (fun _ w => .abs w) 3 6 ∧ lsr 0x5E (fun _ w => .absx w) 3 7))

/-- R196, R197: ROL and ROR on A and on memory: the carry before the instruction enters the vacated bit. -/
def Obligations.RotateRules : Prop :=
  (let left (c : Bool) (m : Byte) : Byte := BitVec.ofNat 8 ((2 * m.toNat + c.toNat) % 256)
   let right (c : Bool) (m : Byte) : Byte := BitVec.ofNat 8 (m.toNat / 2 + 128 * c.toNat)
   let rolF (m : Byte) (s : State) : State := withZN (left s.c m) { s with c := decide (128 ≤ m.toNat) }
   let rorF (m : Byte) (s : State) : State := withZN (right s.c m) { s with c := decide (m.toNat % 2 = 1) }
   let rol := RmwRule (fun m => .rol (.mem m)) (fun s m => left s.c m) rolF
   let ror := RmwRule (fun m => .ror (.mem m)) (fun s m => right s.c m) rorF
   (ImpliedRule (.rol .acc) (fun s => rolF s.a { s with a := left s.c s.a }) 0x2A 2 ∧
     rol 0x26 (fun d _ => .zp d) 2 5 ∧ rol 0x36 (fun d _ => .zpx d) 2 6 ∧
     rol 0x2E (fun _ w => .abs w) 3 6 ∧ rol 0x3E (fun _ w => .absx w) 3 7) ∧
    (ImpliedRule (.ror .acc) (fun s => rorF s.a { s with a := right s.c s.a }) 0x6A 2 ∧
     ror 0x66 (fun d _ => .zp d) 2 5 ∧ ror 0x76 (fun d _ => .zpx d) 2 6 ∧
     ror 0x6E (fun _ w => .abs w) 3 6 ∧ ror 0x7E (fun _ w => .absx w) 3 7))

/-! ## Control transfer -/

/-- R210 to R218: the eight branches: 2 cycles not taken, 3 taken, 4 taken to another page than that of `PCnext`. R115:
the target is the address after the branch plus the offset read as a signed byte, mod 2^16. -/
def Obligations.BranchRules : Prop :=
  BranchRule .bcc (fun s => !s.c) 0x90 ∧ BranchRule .bcs (fun s => s.c) 0xB0 ∧
  BranchRule .beq (fun s => s.z) 0xF0 ∧ BranchRule .bne (fun s => !s.z) 0xD0 ∧
  BranchRule .bmi (fun s => s.n) 0x30 ∧ BranchRule .bpl (fun s => !s.n) 0x10 ∧
  BranchRule .bvc (fun s => !s.v) 0x50 ∧ BranchRule .bvs (fun s => s.v) 0x70 ∧
  ∀ (pcNext : Word) (off : Byte),
    ((pcNext + sext16 off).toNat : Int) = ((pcNext.toNat : Int) + signed off) % 65536

/-- R219, R220: JMP absolute, and JMP indirect through a plain `Read16` with no page-wrap. -/
def Obligations.JumpRules : Prop :=
  ∀ (data : Byte) (addr : Word) (s : State),
    decodeStaged 0x4C data addr = .jmp (.abs addr) ∧
    exec (.jmp (.abs addr)) s = .next (ends s addr 3 s.trace) ∧
    decodeStaged 0x6C data addr = .jmp (.ind addr) ∧
    exec (.jmp (.ind addr)) s =
      .next (ends s (joinBytes (s.mem.read addr) (s.mem.read (addr + 1))) 5
        (s.trace ++ [.read addr, .read (addr + 1)]))

/-- R221, R222: JSR pushes the address of its own last byte, high byte first, and jumps; no other byte of memory
changes. RTS pulls an address, low byte first, adds one and jumps there; memory is unchanged. -/
def Obligations.CallAndReturnRules : Prop :=
  ∀ (data : Byte) (addr : Word) (s : State),
    decodeStaged 0x20 data addr = .jsr addr ∧
    decodeStaged 0x60 data addr = .rts ∧
    exec .rts s =
      .next (ends { s with sp := s.sp + 2 }
        (joinBytes (s.mem.read (stackAddr (s.sp + 1))) (s.mem.read (stackAddr (s.sp + 2))) + 1) 6
        (s.trace ++ [.read (stackAddr (s.sp + 1)), .read (stackAddr (s.sp + 2))])) ∧
    ∃ t, exec (.jsr addr) s = .next t ∧
      t = ends { s with sp := s.sp - 2, mem := t.mem } addr 6
        (s.trace ++ [.write (stackAddr s.sp) (hi8 (s.pc + 2)), .write (stackAddr (s.sp - 1)) (lo8 (s.pc + 2))]) ∧
      t.mem = (s.mem.write (stackAddr s.sp) (hi8 (s.pc + 2))).write (stackAddr (s.sp - 1)) (lo8 (s.pc + 2)) ∧
      ∀ b, t.mem.read b =
        if b = stackAddr s.sp then hi8 (s.pc + 2)
        else if b = stackAddr (s.sp - 1) then lo8 (s.pc + 2) else s.mem.read b

/-- R221, R222: an RTS executed with JSR's two bytes still on the stack returns to the instruction after the JSR, with
SP as it was before the call, wherever the subroutine stands. -/
def Obligations.ReturnUndoesCall : Prop :=
  ∀ (addr pc' : Word) (s : State),
    ∃ t u, exec (.jsr addr) s = .next t ∧ exec .rts { t with pc := pc' } = .next u ∧
      u.pc = s.pc + 3 ∧ u.sp = s.sp ∧ u.mem = t.mem ∧
      u.a = s.a ∧ u.x = s.x ∧ u.y = s.y ∧ statusRead u = statusRead s ∧ u.cycles = s.cycles + 12

/-- R223: RTI pulls the status, whose bits 4 and 5 are discarded, then PC, to which nothing is added. -/
def Obligations.ReturnFromInterruptRule : Prop :=
  ∀ (data : Byte) (addr : Word) (s : State),
    decodeStaged 0x40 data addr = .rti ∧
    exec .rti s =
      .next (ends { statusWrite (s.mem.read (stackAddr (s.sp + 1))) s with sp := s.sp + 3 }
        (joinBytes (s.mem.read (stackAddr (s.sp + 2))) (s.mem.read (stackAddr (s.sp + 3)))) 6
        (s.trace ++ [.read (stackAddr (s.sp + 1)), .read (stackAddr (s.sp + 2)), .read (stackAddr (s.sp + 3))]))

/-- R224: BRK pushes `PCop + 2`, high byte first, then the status with bits 4 and 5 set, sets I, and goes to the IRQ
vector. No other byte of memory and no latch changes, and no other flag (the spec's reading D24). -/
def Obligations.BreakRule : Prop :=
  ∀ (data : Byte) (addr : Word) (s : State),
    decodeStaged 0x00 data addr = .brk ∧
    ∃ t, exec .brk s = .next t ∧
      t = ends { s with sp := s.sp - 3, i := true, mem := t.mem }
        (joinBytes (s.mem.read 0xFFFE) (s.mem.read 0xFFFF)) 7
        (s.trace ++ [.write (stackAddr s.sp) (hi8 (s.pc + 2)), .write (stackAddr (s.sp - 1)) (lo8 (s.pc + 2)),
          .write (stackAddr (s.sp - 2)) (statusRead s), .read 0xFFFE, .read 0xFFFF]) ∧
      t.mem = ((s.mem.write (stackAddr s.sp) (hi8 (s.pc + 2))).write (stackAddr (s.sp - 1))
        (lo8 (s.pc + 2))).write (stackAddr (s.sp - 2)) (statusRead s) ∧
      ∀ b, t.mem.read b =
        if b = stackAddr s.sp then hi8 (s.pc + 2)
        else if b = stackAddr (s.sp - 1) then lo8 (s.pc + 2)
        else if b = stackAddr (s.sp - 2) then statusRead s else s.mem.read b

/-- R286: RTI returns from all three entries. Executed with the entry's three bytes still on the stack, wherever the
handler stands, it resumes at `PCop + 2` after BRK (skipping the signature byte, R224) and at the interrupted PC after
NMI and IRQ service, with every flag, I included, and SP as they were before the entry. -/
def Obligations.ReturnUndoesBreak : Prop :=
  (let resumes (s t : State) (pc : Word) : Prop :=
    ∀ pc' : Word, ∃ u, exec .rti { t with pc := pc' } = .next u ∧
      u.pc = pc ∧ u.sp = s.sp ∧ u.mem = t.mem ∧ statusRead u = statusRead s ∧ u.i = s.i ∧
      u.a = s.a ∧ u.x = s.x ∧ u.y = s.y
   (∀ s : State, ∃ t, exec .brk s = .next t ∧ resumes s t (s.pc + 2)) ∧
    (∀ s : State, s.stepBranch = .nmi ∨ s.stepBranch = .irq → ∃ t, step s = .next t ∧ resumes s t s.pc))

/-! ## Stack and flag instructions -/

/-- R240 to R243: PHA, PHP, PLA and PLP. -/
def Obligations.StackInstructionRules : Prop :=
  (let pushes (i : Instr) (op : Byte) (value : State → Byte) : Prop :=
    ∀ (data : Byte) (addr : Word) (s : State),
      decodeStaged op data addr = i ∧
      ∃ t, exec i s = .next t ∧
        t = ends { s with sp := s.sp - 1, mem := t.mem } (s.pc + 1) 3
          (s.trace ++ [.write (stackAddr s.sp) (value s)]) ∧
        t.mem = s.mem.write (stackAddr s.sp) (value s) ∧
        ∀ b, t.mem.read b = if b = stackAddr s.sp then value s else s.mem.read b
   let pulls (i : Instr) (op : Byte) (effect : Byte → State → State) : Prop :=
    ∀ (data : Byte) (addr : Word) (s : State),
      decodeStaged op data addr = i ∧
      exec i s =
        .next (ends { effect (s.mem.read (stackAddr (s.sp + 1))) s with sp := s.sp + 1 } (s.pc + 1) 4
          (s.trace ++ [.read (stackAddr (s.sp + 1))]))
   pushes .pha 0x48 State.a ∧ pushes .php 0x08 statusRead ∧
    pulls .pla 0x68 (fun b s => withZN b { s with a := b }) ∧ pulls .plp 0x28 statusWrite)

/-- R244 to R251: each flag instruction changes its one flag, and NOP nothing, besides PC, the counter and the ticks. -/
def Obligations.FlagInstructionRules : Prop :=
  ImpliedRule .clc (fun s => { s with c := false }) 0x18 2 ∧ ImpliedRule .sec (fun s => { s with c := true }) 0x38 2 ∧
  ImpliedRule .cli (fun s => { s with i := false }) 0x58 2 ∧ ImpliedRule .sei (fun s => { s with i := true }) 0x78 2 ∧
  ImpliedRule .cld (fun s => { s with d := false }) 0xD8 2 ∧ ImpliedRule .sed (fun s => { s with d := true }) 0xF8 2 ∧
  ImpliedRule .clv (fun s => { s with v := false }) 0xB8 2 ∧ ImpliedRule .nop (fun s => s) 0xEA 2

/-! ## The undocumented opcodes -/

/-- R260: ANC in both encodings is AND immediate, then C is the resulting N. -/
def Obligations.AndThenCarryRule : Prop :=
  ∀ op ∈ ancOpcodes, ∀ (data : Byte) (addr : Word) (s : State),
    decodeStaged op data addr = .anc op data ∧
    exec (.anc op data) s =
      .next (ends (withZN (s.a &&& data) { s with a := s.a &&& data, c := decide (128 ≤ (s.a &&& data).toNat) })
        (s.pc + 2) 2 s.trace)

/-- R261: each of the twelve KIL bytes sets the halt latch, and nothing else of the state changes: no cycle, no tick,
and no PC advance (the spec's reading D13). -/
def Obligations.HaltRule : Prop :=
  ∀ op ∈ kilOpcodes, ∀ (data : Byte) (addr : Word) (s : State),
    decodeStaged op data addr = .kil op ∧ exec (.kil op) s = .next { s with halted := true }

/-- R262: each of the 91 fail-soft bytes is reported and is otherwise a one-byte, two-cycle no-op. The advance of PC by
one is the spec's choice D12, and a report that carries the opcode byte alone is D31 (log entry 11). -/
def Obligations.FailSoftRule : Prop :=
  ∀ op ∈ failsoftOpcodes, ∀ (data : Byte) (addr : Word) (s : State),
    decodeStaged op data addr = .failsoft op ∧
    exec (.failsoft op) s = .next (ends s (s.pc + 1) 2 (s.trace ++ [.diagUnknown op]))

/-! ## Costs -/

/-- R102, R117, and R80, R101 for the length: every opcode byte, in every state, ends in a next state whose counter has
gone up by the table's base cost, plus one where the opcode is page-sensitive and its mode crossed a page, plus a taken
branch's charges; and where the opcode transfers no control, PC has gone up by the table's length. The spec's own
choices in the table are the unstated counts (D9), the page-sensitive pairs (D10), the length 1 of a fail-soft opcode
(D12), and KIL's length 0 and cost 0 (D13). -/
def Obligations.CycleCostsMatchTheTable : Prop :=
  ∀ (op data : Byte) (addr : Word) (s : State),
    ∃ t, exec (decodeStaged op data addr) s = .next t ∧
      t.cycles = s.cycles + tableCycles.getD op.toNat 0
        + (if op ∈ penaltyOpcodes ∧ modeCross (decodeStaged op data addr) s = true then 1 else 0)
        + branchCharge (decodeStaged op data addr) s ∧
      (op ∉ transferOpcodes → t.pc = s.pc + BitVec.ofNat 16 (tableLen.getD op.toNat 0))

/-! ## The step -/

/-- R82, R100, R275: an instruction step reads the three bytes at PC, PC + 1 and PC + 2 in that order (D14), puts them
in the staging latches, and runs the instruction that the first byte, `Data` and `Address` decode to, at the state they
were staged in. -/
def Obligations.StepRunsTheDecodedInstruction : Prop :=
  ∀ s : State, s.resetPending = false → s.halted = false → s.nmiPending = false →
    (s.irqPending = false ∨ s.i = true) →
    step s =
      exec (decodeStaged (s.mem.read s.pc) (s.mem.read (s.pc + 1))
          (joinBytes (s.mem.read (s.pc + 1)) (s.mem.read (s.pc + 2))))
        { s with
          op := s.mem.read s.pc
          data := s.mem.read (s.pc + 1)
          address := joinBytes (s.mem.read (s.pc + 1)) (s.mem.read (s.pc + 2))
          trace := [.read s.pc, .read (s.pc + 1), .read (s.pc + 2)] }

/-- R310, R311, R312: the reset step, whatever else is pending and halted or not: SP down by three with no write, I set,
PC from 0xFFFC, the counter at 7, every latch clear, and A, X, Y, all of memory and the other flags unchanged (for the
flags the spec's reading D24). -/
def Obligations.ResetSequence : Prop :=
  ∀ s : State, s.resetPending = true →
    step s =
      .next { s with
        sp := s.sp - 3
        i := true
        pc := joinBytes (s.mem.read 0xFFFC) (s.mem.read 0xFFFD)
        cycles := 7
        resetPending := false
        halted := false
        nmiPending := false
        irqPending := false
        trace := [.read 0xFFFC, .read 0xFFFD] ++ tickEvents 0 7 }

/-- R272: the halted step drops NMI and IRQ and has no other effect: no access, no tick. -/
def Obligations.HaltedStepDropsRequests : Prop :=
  ∀ s : State, s.resetPending = false → s.halted = true →
    step s = .next { s with nmiPending := false, irqPending := false, trace := [] }

/-- R273, R276, R277, R278: NMI service and IRQ service. PC high, PC low and the status with bit 4 clear are pushed, I
is set, PC comes from the source's vector, the latches are cleared, 7 cycles pass, and nothing else changes (no other
flag: the spec's reading D24). -/
def Obligations.InterruptService : Prop :=
  (let serves (s : State) (vector : Word) (irqAfter : Bool) : Prop :=
    ∃ t, step s = .next t ∧
      t = ends { s with sp := s.sp - 3, i := true, nmiPending := false, irqPending := irqAfter, mem := t.mem }
        (joinBytes (s.mem.read vector) (s.mem.read (vector + 1))) 7
        [.write (stackAddr s.sp) (hi8 s.pc), .write (stackAddr (s.sp - 1)) (lo8 s.pc),
          .write (stackAddr (s.sp - 2)) (statusRead s &&& 0xEF), .read vector, .read (vector + 1)] ∧
      t.mem = ((s.mem.write (stackAddr s.sp) (hi8 s.pc)).write (stackAddr (s.sp - 1)) (lo8 s.pc)).write
        (stackAddr (s.sp - 2)) (statusRead s &&& 0xEF) ∧
      ∀ b, t.mem.read b =
        if b = stackAddr s.sp then hi8 s.pc
        else if b = stackAddr (s.sp - 1) then lo8 s.pc
        else if b = stackAddr (s.sp - 2) then statusRead s &&& 0xEF else s.mem.read b
   (∀ s : State, s.resetPending = false → s.halted = false → s.nmiPending = true → serves s 0xFFFA false) ∧
    (∀ s : State, s.resetPending = false → s.halted = false → s.nmiPending = false → s.irqPending = true →
      s.i = false → serves s 0xFFFE false))

/-- R284: which step is taken and what the latches are after it, for every combination pending at its start. -/
def Obligations.StepPriority : Prop :=
  ∀ s : State, ∃ t, step s = .next t ∧
    if s.resetPending = true then
      s.stepBranch = .reset ∧ t.resetPending = false ∧ t.nmiPending = false ∧ t.irqPending = false ∧ t.halted = false
    else if s.halted = true then
      s.stepBranch = .halted ∧ t.resetPending = false ∧ t.nmiPending = false ∧ t.irqPending = false ∧ t.halted = true
    else if s.nmiPending = true then
      s.stepBranch = .nmi ∧ t.resetPending = false ∧ t.nmiPending = false ∧ t.irqPending = false ∧ t.halted = false
    else if s.irqPending = true ∧ s.i = false then
      s.stepBranch = .irq ∧ t.resetPending = false ∧ t.nmiPending = false ∧ t.irqPending = false ∧ t.halted = false
    else
      s.stepBranch = .instruction ∧ t.resetPending = false ∧ t.nmiPending = false ∧ t.irqPending = s.irqPending ∧
      (t.halted = true ↔ s.mem.read s.pc ∈ kilOpcodes)

/-- R283: bit 4 of the byte that BRK and PHP push is 1, of the byte that NMI and IRQ service push is 0; bit 5 is 1 in
every one of them. -/
def Obligations.BreakBitTellsSourcesApart : Prop :=
  (∀ s : State, ∃ t, exec .brk s = .next t ∧
    (t.mem.read (stackAddr (t.sp + 1))).getLsbD 4 = true ∧ (t.mem.read (stackAddr (t.sp + 1))).getLsbD 5 = true) ∧
  (∀ s : State, ∃ t, exec .php s = .next t ∧
    (t.mem.read (stackAddr (t.sp + 1))).getLsbD 4 = true ∧ (t.mem.read (stackAddr (t.sp + 1))).getLsbD 5 = true) ∧
  (∀ s : State, s.stepBranch = .nmi ∨ s.stepBranch = .irq → ∃ t, step s = .next t ∧
    (t.mem.read (stackAddr (t.sp + 1))).getLsbD 4 = false ∧ (t.mem.read (stackAddr (t.sp + 1))).getLsbD 5 = true) ∧
  (∀ s t : State, exec .brk s = .next t → t.pc = joinBytes (s.mem.read irqVector) (s.mem.read (irqVector + 1))) ∧
  (∀ s t : State, s.stepBranch = .irq → step s = .next t →
    t.pc = joinBytes (s.mem.read irqVector) (s.mem.read (irqVector + 1)))

/-- R282, R86: no step and no instruction faults or is refused: every one answers a next state. That a term no opcode
byte denotes answers one too is the model's choice (log entry 8), and that `Fault` has no constructor at all is its
inference from R282 (log entry 10). -/
def Obligations.EveryStepAnswers : Prop :=
  (∀ (i : Instr) (s : State), ∃ t, exec i s = .next t) ∧ (∀ s : State, ∃ t, step s = .next t)

/-- R36, R296: only a KIL byte enters `Halted`, and only reset servicing leaves it. That PC and the counter stay as the
KIL step enters it is R261 as the spec reads it (D13). -/
def Obligations.OnlyKilHaltsOnlyResetResumes : Prop :=
  ∀ s t : State, step s = .next t →
    (s.halted = false → t.halted = true → s.stepBranch = .instruction ∧ s.mem.read s.pc ∈ kilOpcodes ∧
      t.pc = s.pc ∧ t.cycles = s.cycles) ∧
    (s.halted = true → t.halted = false →
      s.resetPending = true ∧ t.pc = joinBytes (s.mem.read 0xFFFC) (s.mem.read 0xFFFD))

/-- R322, R295: `Halted` with no reset requested is absorbing. However many steps are given, every one is a halted step,
and from the first on everything but the dropped requests and the emptied trace is what it was. -/
def Obligations.HaltedIsAbsorbing : Prop :=
  ∀ (s : State) (k : Nat), s.halted = true → s.resetPending = false →
    ∃ t, Sys2Proof.core.run (k + 1) s = .next t ∧
      t = { s with nmiPending := false, irqPending := false, trace := [] }

/-- R288, R289 (ticks last: the spec's choice D20): a step emits exactly one tick per cycle it charges, each tick
showing the counter one higher than the last, and the ticks follow every other event of the step. The counter is the
count before the step, or 0 for a reset step, plus the number of ticks. -/
def Obligations.CounterCountsTicks : Prop :=
  ∀ s : State, ∃ t es, step s = .next t ∧
    t.cycles = (if s.resetPending then 0 else s.cycles) + tickCount t.trace ∧
    t.trace = es ++ tickEvents (if s.resetPending then 0 else s.cycles) (tickCount t.trace) ∧
    tickCount es = 0

/-- R58, R63: the trace is the whole truth about memory: replaying a step's `write` events on the memory before it gives
the memory after it, so a byte that no event writes keeps its value. -/
def Obligations.TraceRecordsEveryWrite : Prop :=
  ∀ s t : State, step s = .next t →
    t.mem = replayWrites t.trace s.mem ∧
    ∀ a : Word, (∀ v : Byte, Event.write a v ∉ t.trace) → t.mem.read a = s.mem.read a

/-- R320, R38: nothing but the counter and the ticks depends on the cycle count, and no step reads what an earlier step
staged. Two states that differ only in counter, trace and staging latches step to states that differ only there. -/
def Obligations.TimingDoesNotSteer : Prop :=
  ∀ s s' : State, sameButTiming s s' → ∃ t t', step s = .next t ∧ step s' = .next t' ∧ sameButTiming t t'

/-- R317 (the spec's reading D33): what I is at the start of a step decides that step. With an IRQ requested at the end
of the step (one that was pending before it is still), CLI, or a PLP or RTI that leaves I clear, is followed by the
IRQ's service; SEI, or a PLP or RTI that leaves I set, by the next instruction, whatever I was before. -/
def Obligations.MaskTakesEffectAtOnce : Prop :=
  ∀ s t : State, s.stepBranch = .instruction → step s = .next t →
    (s.irqPending = true → t.reqIrq = t) ∧
    (s.mem.read s.pc = 0x58 → t.reqIrq.stepBranch = .irq) ∧
    (s.mem.read s.pc = 0x78 → t.reqIrq.stepBranch = .instruction) ∧
    (s.mem.read s.pc = 0x28 ∨ s.mem.read s.pc = 0x40 →
      t.reqIrq.stepBranch =
        if (s.mem.read (stackAddr (s.sp + 1))).getLsbD 2 = true then .instruction else .irq)

/-! ## Invariants and reset -/

/-- Every step keeps the memory in its canonical form. -/
def Obligations.StepKeepsMemoryCanonical : Prop :=
  ∀ s t : State, s.memOk → step s = .next t → t.memOk

/-- The memory of `State.reset` is in its canonical form. -/
def Obligations.ResetMemoryIsCanonical : Prop :=
  State.reset.memOk

/-- At power-on, whatever the registers and flags are drawn as and whatever the memory holds, the counter is 0 and every
latch is clear (R313). `State.reset` is the state in which the reset step ends when the host requests a reset of the
machine at power-on, with the power-on values the model names in log entries 1, 2 and 3. Those values are the model's
choice. -/
def Obligations.ResetStateFollowsPowerOn : Prop :=
  (∀ (p : PowerOn) (mem0 : Memory),
    (State.powerOn p mem0).cycles = 0 ∧ (State.powerOn p mem0).halted = false ∧
    (State.powerOn p mem0).resetPending = false ∧ (State.powerOn p mem0).nmiPending = false ∧
    (State.powerOn p mem0).irqPending = false ∧ (State.powerOn p mem0).mem = mem0) ∧
  step (State.powerOn Config.powerOn []).reqReset = .next State.reset

/-! ## The host's ports -/

/-- R279, R291, R319: a request sets its latch and nothing else, at any time, and setting it again is a no-op;
`jump_req` sets PC to the word stored at its address and nothing else; from inside a step, `step` and `jump_req` are
refused. Log entry 7 is the model's inference on calls inside a step (the spec's choices D21 and D34), and log entry 4
its choice that a `jump_req` empties the trace before its two reads. -/
def Obligations.HostPortsBehave : Prop :=
  ∀ (s : State) (inStep : Bool) (addr : Word),
    hostCall inStep .reqReset s = .next { s with resetPending := true } ∧
    hostCall inStep .reqNmi s = .next { s with nmiPending := true } ∧
    hostCall inStep .reqIrq s = .next { s with irqPending := true } ∧
    s.reqReset.reqReset = s.reqReset ∧ s.reqNmi.reqNmi = s.reqNmi ∧ s.reqIrq.reqIrq = s.reqIrq ∧
    hostCall false .step s = step s ∧
    hostCall false (.jumpReq addr) s =
      .next { s with pc := joinBytes (s.mem.read addr) (s.mem.read (addr + 1))
                     trace := [.read addr, .read (addr + 1)] } ∧
    hostCall true .step s = .refused .reentrant ∧
    hostCall true (.jumpReq addr) s = .refused .reentrant

/-- R292, R42: what the host observes is the registers, the flags, the packed status with bits 4 and 5 set, the counter
and the halt latch, and it cannot tell apart two states that differ in the request latches alone. -/
def Obligations.ObservationHidesLatches : Prop :=
  ∀ (s : State) (r n q : Bool),
    ({ s with resetPending := r, nmiPending := n, irqPending := q } : State).observe = s.observe ∧
    s.observe.a = s.a ∧ s.observe.x = s.x ∧ s.observe.y = s.y ∧ s.observe.sp = s.sp ∧ s.observe.pc = s.pc ∧
    s.observe.c = s.c ∧ s.observe.z = s.z ∧ s.observe.i = s.i ∧ s.observe.d = s.d ∧ s.observe.v = s.v ∧
    s.observe.n = s.n ∧ s.observe.status = statusRead s ∧
    s.observe.status = s.observe.status ||| 0x30 ∧ s.observe.cycles = s.cycles ∧ s.observe.halted = s.halted
end

