-- ==== Sys2Proof/Laws/State.lean ====
section
/-! SUPPORT. What each one-step operation on the state does to each field: one lemma per field per update, true by
`rfl`, so that no later proof unfolds a record update. -/

namespace Sys2Proof.Machine

@[simp] theorem memRead_fst (p : Word) (s : State) : (s.memRead p).1 = s.mem.read p := rfl

@[simp] theorem pull_fst (s : State) : s.pull.1 = s.mem.read (stackAddr (s.sp + 1)) := rfl

@[simp] theorem emit_a (es : List Event) (s : State) : (s.emit es).a = s.a := rfl
@[simp] theorem emit_x (es : List Event) (s : State) : (s.emit es).x = s.x := rfl
@[simp] theorem emit_y (es : List Event) (s : State) : (s.emit es).y = s.y := rfl
@[simp] theorem emit_sp (es : List Event) (s : State) : (s.emit es).sp = s.sp := rfl
@[simp] theorem emit_pc (es : List Event) (s : State) : (s.emit es).pc = s.pc := rfl
@[simp] theorem emit_c (es : List Event) (s : State) : (s.emit es).c = s.c := rfl
@[simp] theorem emit_z (es : List Event) (s : State) : (s.emit es).z = s.z := rfl
@[simp] theorem emit_i (es : List Event) (s : State) : (s.emit es).i = s.i := rfl
@[simp] theorem emit_d (es : List Event) (s : State) : (s.emit es).d = s.d := rfl
@[simp] theorem emit_v (es : List Event) (s : State) : (s.emit es).v = s.v := rfl
@[simp] theorem emit_n (es : List Event) (s : State) : (s.emit es).n = s.n := rfl
@[simp] theorem emit_resetPending (es : List Event) (s : State) : (s.emit es).resetPending = s.resetPending := rfl
@[simp] theorem emit_nmiPending (es : List Event) (s : State) : (s.emit es).nmiPending = s.nmiPending := rfl
@[simp] theorem emit_irqPending (es : List Event) (s : State) : (s.emit es).irqPending = s.irqPending := rfl
@[simp] theorem emit_halted (es : List Event) (s : State) : (s.emit es).halted = s.halted := rfl
@[simp] theorem emit_cycles (es : List Event) (s : State) : (s.emit es).cycles = s.cycles := rfl
@[simp] theorem emit_op (es : List Event) (s : State) : (s.emit es).op = s.op := rfl
@[simp] theorem emit_data (es : List Event) (s : State) : (s.emit es).data = s.data := rfl
@[simp] theorem emit_address (es : List Event) (s : State) : (s.emit es).address = s.address := rfl
@[simp] theorem emit_mem (es : List Event) (s : State) : (s.emit es).mem = s.mem := rfl
@[simp] theorem emit_trace (es : List Event) (s : State) : (s.emit es).trace = s.trace ++ es := rfl

@[simp] theorem memRead_a (p : Word) (s : State) : (s.memRead p).2.a = s.a := rfl
@[simp] theorem memRead_x (p : Word) (s : State) : (s.memRead p).2.x = s.x := rfl
@[simp] theorem memRead_y (p : Word) (s : State) : (s.memRead p).2.y = s.y := rfl
@[simp] theorem memRead_sp (p : Word) (s : State) : (s.memRead p).2.sp = s.sp := rfl
@[simp] theorem memRead_pc (p : Word) (s : State) : (s.memRead p).2.pc = s.pc := rfl
@[simp] theorem memRead_c (p : Word) (s : State) : (s.memRead p).2.c = s.c := rfl
@[simp] theorem memRead_z (p : Word) (s : State) : (s.memRead p).2.z = s.z := rfl
@[simp] theorem memRead_i (p : Word) (s : State) : (s.memRead p).2.i = s.i := rfl
@[simp] theorem memRead_d (p : Word) (s : State) : (s.memRead p).2.d = s.d := rfl
@[simp] theorem memRead_v (p : Word) (s : State) : (s.memRead p).2.v = s.v := rfl
@[simp] theorem memRead_n (p : Word) (s : State) : (s.memRead p).2.n = s.n := rfl
@[simp] theorem memRead_resetPending (p : Word) (s : State) : (s.memRead p).2.resetPending = s.resetPending := rfl
@[simp] theorem memRead_nmiPending (p : Word) (s : State) : (s.memRead p).2.nmiPending = s.nmiPending := rfl
@[simp] theorem memRead_irqPending (p : Word) (s : State) : (s.memRead p).2.irqPending = s.irqPending := rfl
@[simp] theorem memRead_halted (p : Word) (s : State) : (s.memRead p).2.halted = s.halted := rfl
@[simp] theorem memRead_cycles (p : Word) (s : State) : (s.memRead p).2.cycles = s.cycles := rfl
@[simp] theorem memRead_op (p : Word) (s : State) : (s.memRead p).2.op = s.op := rfl
@[simp] theorem memRead_data (p : Word) (s : State) : (s.memRead p).2.data = s.data := rfl
@[simp] theorem memRead_address (p : Word) (s : State) : (s.memRead p).2.address = s.address := rfl
@[simp] theorem memRead_mem (p : Word) (s : State) : (s.memRead p).2.mem = s.mem := rfl
@[simp] theorem memRead_trace (p : Word) (s : State) : (s.memRead p).2.trace = s.trace ++ [.read p] := rfl

@[simp] theorem memWrite_a (p : Word) (w : Byte) (s : State) : (s.memWrite p w).a = s.a := rfl
@[simp] theorem memWrite_x (p : Word) (w : Byte) (s : State) : (s.memWrite p w).x = s.x := rfl
@[simp] theorem memWrite_y (p : Word) (w : Byte) (s : State) : (s.memWrite p w).y = s.y := rfl
@[simp] theorem memWrite_sp (p : Word) (w : Byte) (s : State) : (s.memWrite p w).sp = s.sp := rfl
@[simp] theorem memWrite_pc (p : Word) (w : Byte) (s : State) : (s.memWrite p w).pc = s.pc := rfl
@[simp] theorem memWrite_c (p : Word) (w : Byte) (s : State) : (s.memWrite p w).c = s.c := rfl
@[simp] theorem memWrite_z (p : Word) (w : Byte) (s : State) : (s.memWrite p w).z = s.z := rfl
@[simp] theorem memWrite_i (p : Word) (w : Byte) (s : State) : (s.memWrite p w).i = s.i := rfl
@[simp] theorem memWrite_d (p : Word) (w : Byte) (s : State) : (s.memWrite p w).d = s.d := rfl
@[simp] theorem memWrite_v (p : Word) (w : Byte) (s : State) : (s.memWrite p w).v = s.v := rfl
@[simp] theorem memWrite_n (p : Word) (w : Byte) (s : State) : (s.memWrite p w).n = s.n := rfl
@[simp] theorem memWrite_resetPending (p : Word) (w : Byte) (s : State) : (s.memWrite p w).resetPending = s.resetPending := rfl
@[simp] theorem memWrite_nmiPending (p : Word) (w : Byte) (s : State) : (s.memWrite p w).nmiPending = s.nmiPending := rfl
@[simp] theorem memWrite_irqPending (p : Word) (w : Byte) (s : State) : (s.memWrite p w).irqPending = s.irqPending := rfl
@[simp] theorem memWrite_halted (p : Word) (w : Byte) (s : State) : (s.memWrite p w).halted = s.halted := rfl
@[simp] theorem memWrite_cycles (p : Word) (w : Byte) (s : State) : (s.memWrite p w).cycles = s.cycles := rfl
@[simp] theorem memWrite_op (p : Word) (w : Byte) (s : State) : (s.memWrite p w).op = s.op := rfl
@[simp] theorem memWrite_data (p : Word) (w : Byte) (s : State) : (s.memWrite p w).data = s.data := rfl
@[simp] theorem memWrite_address (p : Word) (w : Byte) (s : State) : (s.memWrite p w).address = s.address := rfl
@[simp] theorem memWrite_mem (p : Word) (w : Byte) (s : State) : (s.memWrite p w).mem = s.mem.write p w := rfl
@[simp] theorem memWrite_trace (p : Word) (w : Byte) (s : State) : (s.memWrite p w).trace = s.trace ++ [.write p w] := rfl

@[simp] theorem push_a (w : Byte) (s : State) : (s.push w).a = s.a := rfl
@[simp] theorem push_x (w : Byte) (s : State) : (s.push w).x = s.x := rfl
@[simp] theorem push_y (w : Byte) (s : State) : (s.push w).y = s.y := rfl
@[simp] theorem push_sp (w : Byte) (s : State) : (s.push w).sp = s.sp - 1 := rfl
@[simp] theorem push_pc (w : Byte) (s : State) : (s.push w).pc = s.pc := rfl
@[simp] theorem push_c (w : Byte) (s : State) : (s.push w).c = s.c := rfl
@[simp] theorem push_z (w : Byte) (s : State) : (s.push w).z = s.z := rfl
@[simp] theorem push_i (w : Byte) (s : State) : (s.push w).i = s.i := rfl
@[simp] theorem push_d (w : Byte) (s : State) : (s.push w).d = s.d := rfl
@[simp] theorem push_v (w : Byte) (s : State) : (s.push w).v = s.v := rfl
@[simp] theorem push_n (w : Byte) (s : State) : (s.push w).n = s.n := rfl
@[simp] theorem push_resetPending (w : Byte) (s : State) : (s.push w).resetPending = s.resetPending := rfl
@[simp] theorem push_nmiPending (w : Byte) (s : State) : (s.push w).nmiPending = s.nmiPending := rfl
@[simp] theorem push_irqPending (w : Byte) (s : State) : (s.push w).irqPending = s.irqPending := rfl
@[simp] theorem push_halted (w : Byte) (s : State) : (s.push w).halted = s.halted := rfl
@[simp] theorem push_cycles (w : Byte) (s : State) : (s.push w).cycles = s.cycles := rfl
@[simp] theorem push_op (w : Byte) (s : State) : (s.push w).op = s.op := rfl
@[simp] theorem push_data (w : Byte) (s : State) : (s.push w).data = s.data := rfl
@[simp] theorem push_address (w : Byte) (s : State) : (s.push w).address = s.address := rfl
@[simp] theorem push_mem (w : Byte) (s : State) : (s.push w).mem = s.mem.write (stackAddr s.sp) w := rfl
@[simp] theorem push_trace (w : Byte) (s : State) : (s.push w).trace = s.trace ++ [.write (stackAddr s.sp) w] := rfl

@[simp] theorem pull_a (s : State) : s.pull.2.a = s.a := rfl
@[simp] theorem pull_x (s : State) : s.pull.2.x = s.x := rfl
@[simp] theorem pull_y (s : State) : s.pull.2.y = s.y := rfl
@[simp] theorem pull_sp (s : State) : s.pull.2.sp = s.sp + 1 := rfl
@[simp] theorem pull_pc (s : State) : s.pull.2.pc = s.pc := rfl
@[simp] theorem pull_c (s : State) : s.pull.2.c = s.c := rfl
@[simp] theorem pull_z (s : State) : s.pull.2.z = s.z := rfl
@[simp] theorem pull_i (s : State) : s.pull.2.i = s.i := rfl
@[simp] theorem pull_d (s : State) : s.pull.2.d = s.d := rfl
@[simp] theorem pull_v (s : State) : s.pull.2.v = s.v := rfl
@[simp] theorem pull_n (s : State) : s.pull.2.n = s.n := rfl
@[simp] theorem pull_resetPending (s : State) : s.pull.2.resetPending = s.resetPending := rfl
@[simp] theorem pull_nmiPending (s : State) : s.pull.2.nmiPending = s.nmiPending := rfl
@[simp] theorem pull_irqPending (s : State) : s.pull.2.irqPending = s.irqPending := rfl
@[simp] theorem pull_halted (s : State) : s.pull.2.halted = s.halted := rfl
@[simp] theorem pull_cycles (s : State) : s.pull.2.cycles = s.cycles := rfl
@[simp] theorem pull_op (s : State) : s.pull.2.op = s.op := rfl
@[simp] theorem pull_data (s : State) : s.pull.2.data = s.data := rfl
@[simp] theorem pull_address (s : State) : s.pull.2.address = s.address := rfl
@[simp] theorem pull_mem (s : State) : s.pull.2.mem = s.mem := rfl
@[simp] theorem pull_trace (s : State) : s.pull.2.trace = s.trace ++ [.read (stackAddr (s.sp + 1))] := rfl

@[simp] theorem advance_a (len : Word) (s : State) : (s.advance len).a = s.a := rfl
@[simp] theorem advance_x (len : Word) (s : State) : (s.advance len).x = s.x := rfl
@[simp] theorem advance_y (len : Word) (s : State) : (s.advance len).y = s.y := rfl
@[simp] theorem advance_sp (len : Word) (s : State) : (s.advance len).sp = s.sp := rfl
@[simp] theorem advance_pc (len : Word) (s : State) : (s.advance len).pc = s.pc + len := rfl
@[simp] theorem advance_c (len : Word) (s : State) : (s.advance len).c = s.c := rfl
@[simp] theorem advance_z (len : Word) (s : State) : (s.advance len).z = s.z := rfl
@[simp] theorem advance_i (len : Word) (s : State) : (s.advance len).i = s.i := rfl
@[simp] theorem advance_d (len : Word) (s : State) : (s.advance len).d = s.d := rfl
@[simp] theorem advance_v (len : Word) (s : State) : (s.advance len).v = s.v := rfl
@[simp] theorem advance_n (len : Word) (s : State) : (s.advance len).n = s.n := rfl
@[simp] theorem advance_resetPending (len : Word) (s : State) : (s.advance len).resetPending = s.resetPending := rfl
@[simp] theorem advance_nmiPending (len : Word) (s : State) : (s.advance len).nmiPending = s.nmiPending := rfl
@[simp] theorem advance_irqPending (len : Word) (s : State) : (s.advance len).irqPending = s.irqPending := rfl
@[simp] theorem advance_halted (len : Word) (s : State) : (s.advance len).halted = s.halted := rfl
@[simp] theorem advance_cycles (len : Word) (s : State) : (s.advance len).cycles = s.cycles := rfl
@[simp] theorem advance_op (len : Word) (s : State) : (s.advance len).op = s.op := rfl
@[simp] theorem advance_data (len : Word) (s : State) : (s.advance len).data = s.data := rfl
@[simp] theorem advance_address (len : Word) (s : State) : (s.advance len).address = s.address := rfl
@[simp] theorem advance_mem (len : Word) (s : State) : (s.advance len).mem = s.mem := rfl
@[simp] theorem advance_trace (len : Word) (s : State) : (s.advance len).trace = s.trace := rfl

@[simp] theorem beginStep_a (s : State) : s.beginStep.a = s.a := rfl
@[simp] theorem beginStep_x (s : State) : s.beginStep.x = s.x := rfl
@[simp] theorem beginStep_y (s : State) : s.beginStep.y = s.y := rfl
@[simp] theorem beginStep_sp (s : State) : s.beginStep.sp = s.sp := rfl
@[simp] theorem beginStep_pc (s : State) : s.beginStep.pc = s.pc := rfl
@[simp] theorem beginStep_c (s : State) : s.beginStep.c = s.c := rfl
@[simp] theorem beginStep_z (s : State) : s.beginStep.z = s.z := rfl
@[simp] theorem beginStep_i (s : State) : s.beginStep.i = s.i := rfl
@[simp] theorem beginStep_d (s : State) : s.beginStep.d = s.d := rfl
@[simp] theorem beginStep_v (s : State) : s.beginStep.v = s.v := rfl
@[simp] theorem beginStep_n (s : State) : s.beginStep.n = s.n := rfl
@[simp] theorem beginStep_resetPending (s : State) : s.beginStep.resetPending = s.resetPending := rfl
@[simp] theorem beginStep_nmiPending (s : State) : s.beginStep.nmiPending = s.nmiPending := rfl
@[simp] theorem beginStep_irqPending (s : State) : s.beginStep.irqPending = s.irqPending := rfl
@[simp] theorem beginStep_halted (s : State) : s.beginStep.halted = s.halted := rfl
@[simp] theorem beginStep_cycles (s : State) : s.beginStep.cycles = s.cycles := rfl
@[simp] theorem beginStep_op (s : State) : s.beginStep.op = s.op := rfl
@[simp] theorem beginStep_data (s : State) : s.beginStep.data = s.data := rfl
@[simp] theorem beginStep_address (s : State) : s.beginStep.address = s.address := rfl
@[simp] theorem beginStep_mem (s : State) : s.beginStep.mem = s.mem := rfl
@[simp] theorem beginStep_trace (s : State) : s.beginStep.trace = [] := rfl

@[simp] theorem setZN_a (r : Byte) (s : State) : (setZN r s).a = s.a := rfl
@[simp] theorem setZN_x (r : Byte) (s : State) : (setZN r s).x = s.x := rfl
@[simp] theorem setZN_y (r : Byte) (s : State) : (setZN r s).y = s.y := rfl
@[simp] theorem setZN_sp (r : Byte) (s : State) : (setZN r s).sp = s.sp := rfl
@[simp] theorem setZN_pc (r : Byte) (s : State) : (setZN r s).pc = s.pc := rfl
@[simp] theorem setZN_c (r : Byte) (s : State) : (setZN r s).c = s.c := rfl
@[simp] theorem setZN_z (r : Byte) (s : State) : (setZN r s).z = (r == 0) := rfl
@[simp] theorem setZN_i (r : Byte) (s : State) : (setZN r s).i = s.i := rfl
@[simp] theorem setZN_d (r : Byte) (s : State) : (setZN r s).d = s.d := rfl
@[simp] theorem setZN_v (r : Byte) (s : State) : (setZN r s).v = s.v := rfl
@[simp] theorem setZN_n (r : Byte) (s : State) : (setZN r s).n = r.getLsbD 7 := rfl
@[simp] theorem setZN_resetPending (r : Byte) (s : State) : (setZN r s).resetPending = s.resetPending := rfl
@[simp] theorem setZN_nmiPending (r : Byte) (s : State) : (setZN r s).nmiPending = s.nmiPending := rfl
@[simp] theorem setZN_irqPending (r : Byte) (s : State) : (setZN r s).irqPending = s.irqPending := rfl
@[simp] theorem setZN_halted (r : Byte) (s : State) : (setZN r s).halted = s.halted := rfl
@[simp] theorem setZN_cycles (r : Byte) (s : State) : (setZN r s).cycles = s.cycles := rfl
@[simp] theorem setZN_op (r : Byte) (s : State) : (setZN r s).op = s.op := rfl
@[simp] theorem setZN_data (r : Byte) (s : State) : (setZN r s).data = s.data := rfl
@[simp] theorem setZN_address (r : Byte) (s : State) : (setZN r s).address = s.address := rfl
@[simp] theorem setZN_mem (r : Byte) (s : State) : (setZN r s).mem = s.mem := rfl
@[simp] theorem setZN_trace (r : Byte) (s : State) : (setZN r s).trace = s.trace := rfl

@[simp] theorem statusWrite_a (b : Byte) (s : State) : (statusWrite b s).a = s.a := rfl
@[simp] theorem statusWrite_x (b : Byte) (s : State) : (statusWrite b s).x = s.x := rfl
@[simp] theorem statusWrite_y (b : Byte) (s : State) : (statusWrite b s).y = s.y := rfl
@[simp] theorem statusWrite_sp (b : Byte) (s : State) : (statusWrite b s).sp = s.sp := rfl
@[simp] theorem statusWrite_pc (b : Byte) (s : State) : (statusWrite b s).pc = s.pc := rfl
@[simp] theorem statusWrite_c (b : Byte) (s : State) : (statusWrite b s).c = b.getLsbD 0 := rfl
@[simp] theorem statusWrite_z (b : Byte) (s : State) : (statusWrite b s).z = b.getLsbD 1 := rfl
@[simp] theorem statusWrite_i (b : Byte) (s : State) : (statusWrite b s).i = b.getLsbD 2 := rfl
@[simp] theorem statusWrite_d (b : Byte) (s : State) : (statusWrite b s).d = b.getLsbD 3 := rfl
@[simp] theorem statusWrite_v (b : Byte) (s : State) : (statusWrite b s).v = b.getLsbD 6 := rfl
@[simp] theorem statusWrite_n (b : Byte) (s : State) : (statusWrite b s).n = b.getLsbD 7 := rfl
@[simp] theorem statusWrite_resetPending (b : Byte) (s : State) : (statusWrite b s).resetPending = s.resetPending := rfl
@[simp] theorem statusWrite_nmiPending (b : Byte) (s : State) : (statusWrite b s).nmiPending = s.nmiPending := rfl
@[simp] theorem statusWrite_irqPending (b : Byte) (s : State) : (statusWrite b s).irqPending = s.irqPending := rfl
@[simp] theorem statusWrite_halted (b : Byte) (s : State) : (statusWrite b s).halted = s.halted := rfl
@[simp] theorem statusWrite_cycles (b : Byte) (s : State) : (statusWrite b s).cycles = s.cycles := rfl
@[simp] theorem statusWrite_op (b : Byte) (s : State) : (statusWrite b s).op = s.op := rfl
@[simp] theorem statusWrite_data (b : Byte) (s : State) : (statusWrite b s).data = s.data := rfl
@[simp] theorem statusWrite_address (b : Byte) (s : State) : (statusWrite b s).address = s.address := rfl
@[simp] theorem statusWrite_mem (b : Byte) (s : State) : (statusWrite b s).mem = s.mem := rfl
@[simp] theorem statusWrite_trace (b : Byte) (s : State) : (statusWrite b s).trace = s.trace := rfl

@[simp] theorem putAlu_a (t : AluResult) (s : State) : (putAlu t s).a = t.r := rfl
@[simp] theorem putAlu_x (t : AluResult) (s : State) : (putAlu t s).x = s.x := rfl
@[simp] theorem putAlu_y (t : AluResult) (s : State) : (putAlu t s).y = s.y := rfl
@[simp] theorem putAlu_sp (t : AluResult) (s : State) : (putAlu t s).sp = s.sp := rfl
@[simp] theorem putAlu_pc (t : AluResult) (s : State) : (putAlu t s).pc = s.pc := rfl
@[simp] theorem putAlu_c (t : AluResult) (s : State) : (putAlu t s).c = t.c := rfl
@[simp] theorem putAlu_z (t : AluResult) (s : State) : (putAlu t s).z = t.z := rfl
@[simp] theorem putAlu_i (t : AluResult) (s : State) : (putAlu t s).i = s.i := rfl
@[simp] theorem putAlu_d (t : AluResult) (s : State) : (putAlu t s).d = s.d := rfl
@[simp] theorem putAlu_v (t : AluResult) (s : State) : (putAlu t s).v = t.v := rfl
@[simp] theorem putAlu_n (t : AluResult) (s : State) : (putAlu t s).n = t.n := rfl
@[simp] theorem putAlu_resetPending (t : AluResult) (s : State) : (putAlu t s).resetPending = s.resetPending := rfl
@[simp] theorem putAlu_nmiPending (t : AluResult) (s : State) : (putAlu t s).nmiPending = s.nmiPending := rfl
@[simp] theorem putAlu_irqPending (t : AluResult) (s : State) : (putAlu t s).irqPending = s.irqPending := rfl
@[simp] theorem putAlu_halted (t : AluResult) (s : State) : (putAlu t s).halted = s.halted := rfl
@[simp] theorem putAlu_cycles (t : AluResult) (s : State) : (putAlu t s).cycles = s.cycles := rfl
@[simp] theorem putAlu_op (t : AluResult) (s : State) : (putAlu t s).op = s.op := rfl
@[simp] theorem putAlu_data (t : AluResult) (s : State) : (putAlu t s).data = s.data := rfl
@[simp] theorem putAlu_address (t : AluResult) (s : State) : (putAlu t s).address = s.address := rfl
@[simp] theorem putAlu_mem (t : AluResult) (s : State) : (putAlu t s).mem = s.mem := rfl
@[simp] theorem putAlu_trace (t : AluResult) (s : State) : (putAlu t s).trace = s.trace := rfl

@[simp] theorem compareFlags_a (r m : Byte) (s : State) : (compareFlags r m s).a = s.a := rfl
@[simp] theorem compareFlags_x (r m : Byte) (s : State) : (compareFlags r m s).x = s.x := rfl
@[simp] theorem compareFlags_y (r m : Byte) (s : State) : (compareFlags r m s).y = s.y := rfl
@[simp] theorem compareFlags_sp (r m : Byte) (s : State) : (compareFlags r m s).sp = s.sp := rfl
@[simp] theorem compareFlags_pc (r m : Byte) (s : State) : (compareFlags r m s).pc = s.pc := rfl
@[simp] theorem compareFlags_c (r m : Byte) (s : State) : (compareFlags r m s).c = m.ule r := rfl
@[simp] theorem compareFlags_z (r m : Byte) (s : State) : (compareFlags r m s).z = (r - m == 0) := rfl
@[simp] theorem compareFlags_i (r m : Byte) (s : State) : (compareFlags r m s).i = s.i := rfl
@[simp] theorem compareFlags_d (r m : Byte) (s : State) : (compareFlags r m s).d = s.d := rfl
@[simp] theorem compareFlags_v (r m : Byte) (s : State) : (compareFlags r m s).v = s.v := rfl
@[simp] theorem compareFlags_n (r m : Byte) (s : State) : (compareFlags r m s).n = (r - m).getLsbD 7 := rfl
@[simp] theorem compareFlags_resetPending (r m : Byte) (s : State) : (compareFlags r m s).resetPending = s.resetPending := rfl
@[simp] theorem compareFlags_nmiPending (r m : Byte) (s : State) : (compareFlags r m s).nmiPending = s.nmiPending := rfl
@[simp] theorem compareFlags_irqPending (r m : Byte) (s : State) : (compareFlags r m s).irqPending = s.irqPending := rfl
@[simp] theorem compareFlags_halted (r m : Byte) (s : State) : (compareFlags r m s).halted = s.halted := rfl
@[simp] theorem compareFlags_cycles (r m : Byte) (s : State) : (compareFlags r m s).cycles = s.cycles := rfl
@[simp] theorem compareFlags_op (r m : Byte) (s : State) : (compareFlags r m s).op = s.op := rfl
@[simp] theorem compareFlags_data (r m : Byte) (s : State) : (compareFlags r m s).data = s.data := rfl
@[simp] theorem compareFlags_address (r m : Byte) (s : State) : (compareFlags r m s).address = s.address := rfl
@[simp] theorem compareFlags_mem (r m : Byte) (s : State) : (compareFlags r m s).mem = s.mem := rfl
@[simp] theorem compareFlags_trace (r m : Byte) (s : State) : (compareFlags r m s).trace = s.trace := rfl

@[simp] theorem bitTest_a (m : Byte) (s : State) : (bitTest m s).a = s.a := rfl
@[simp] theorem bitTest_x (m : Byte) (s : State) : (bitTest m s).x = s.x := rfl
@[simp] theorem bitTest_y (m : Byte) (s : State) : (bitTest m s).y = s.y := rfl
@[simp] theorem bitTest_sp (m : Byte) (s : State) : (bitTest m s).sp = s.sp := rfl
@[simp] theorem bitTest_pc (m : Byte) (s : State) : (bitTest m s).pc = s.pc := rfl
@[simp] theorem bitTest_c (m : Byte) (s : State) : (bitTest m s).c = s.c := rfl
@[simp] theorem bitTest_z (m : Byte) (s : State) : (bitTest m s).z = ((s.a &&& m) == 0) := rfl
@[simp] theorem bitTest_i (m : Byte) (s : State) : (bitTest m s).i = s.i := rfl
@[simp] theorem bitTest_d (m : Byte) (s : State) : (bitTest m s).d = s.d := rfl
@[simp] theorem bitTest_v (m : Byte) (s : State) : (bitTest m s).v = m.getLsbD 6 := rfl
@[simp] theorem bitTest_n (m : Byte) (s : State) : (bitTest m s).n = m.getLsbD 7 := rfl
@[simp] theorem bitTest_resetPending (m : Byte) (s : State) : (bitTest m s).resetPending = s.resetPending := rfl
@[simp] theorem bitTest_nmiPending (m : Byte) (s : State) : (bitTest m s).nmiPending = s.nmiPending := rfl
@[simp] theorem bitTest_irqPending (m : Byte) (s : State) : (bitTest m s).irqPending = s.irqPending := rfl
@[simp] theorem bitTest_halted (m : Byte) (s : State) : (bitTest m s).halted = s.halted := rfl
@[simp] theorem bitTest_cycles (m : Byte) (s : State) : (bitTest m s).cycles = s.cycles := rfl
@[simp] theorem bitTest_op (m : Byte) (s : State) : (bitTest m s).op = s.op := rfl
@[simp] theorem bitTest_data (m : Byte) (s : State) : (bitTest m s).data = s.data := rfl
@[simp] theorem bitTest_address (m : Byte) (s : State) : (bitTest m s).address = s.address := rfl
@[simp] theorem bitTest_mem (m : Byte) (s : State) : (bitTest m s).mem = s.mem := rfl
@[simp] theorem bitTest_trace (m : Byte) (s : State) : (bitTest m s).trace = s.trace := rfl

@[simp] theorem shiftFlags_a (k : Bool) (r : Byte) (s : State) : (shiftFlags k r s).a = s.a := rfl
@[simp] theorem shiftFlags_x (k : Bool) (r : Byte) (s : State) : (shiftFlags k r s).x = s.x := rfl
@[simp] theorem shiftFlags_y (k : Bool) (r : Byte) (s : State) : (shiftFlags k r s).y = s.y := rfl
@[simp] theorem shiftFlags_sp (k : Bool) (r : Byte) (s : State) : (shiftFlags k r s).sp = s.sp := rfl
@[simp] theorem shiftFlags_pc (k : Bool) (r : Byte) (s : State) : (shiftFlags k r s).pc = s.pc := rfl
@[simp] theorem shiftFlags_c (k : Bool) (r : Byte) (s : State) : (shiftFlags k r s).c = k := rfl
@[simp] theorem shiftFlags_z (k : Bool) (r : Byte) (s : State) : (shiftFlags k r s).z = (r == 0) := rfl
@[simp] theorem shiftFlags_i (k : Bool) (r : Byte) (s : State) : (shiftFlags k r s).i = s.i := rfl
@[simp] theorem shiftFlags_d (k : Bool) (r : Byte) (s : State) : (shiftFlags k r s).d = s.d := rfl
@[simp] theorem shiftFlags_v (k : Bool) (r : Byte) (s : State) : (shiftFlags k r s).v = s.v := rfl
@[simp] theorem shiftFlags_n (k : Bool) (r : Byte) (s : State) : (shiftFlags k r s).n = r.getLsbD 7 := rfl
@[simp] theorem shiftFlags_resetPending (k : Bool) (r : Byte) (s : State) : (shiftFlags k r s).resetPending = s.resetPending := rfl
@[simp] theorem shiftFlags_nmiPending (k : Bool) (r : Byte) (s : State) : (shiftFlags k r s).nmiPending = s.nmiPending := rfl
@[simp] theorem shiftFlags_irqPending (k : Bool) (r : Byte) (s : State) : (shiftFlags k r s).irqPending = s.irqPending := rfl
@[simp] theorem shiftFlags_halted (k : Bool) (r : Byte) (s : State) : (shiftFlags k r s).halted = s.halted := rfl
@[simp] theorem shiftFlags_cycles (k : Bool) (r : Byte) (s : State) : (shiftFlags k r s).cycles = s.cycles := rfl
@[simp] theorem shiftFlags_op (k : Bool) (r : Byte) (s : State) : (shiftFlags k r s).op = s.op := rfl
@[simp] theorem shiftFlags_data (k : Bool) (r : Byte) (s : State) : (shiftFlags k r s).data = s.data := rfl
@[simp] theorem shiftFlags_address (k : Bool) (r : Byte) (s : State) : (shiftFlags k r s).address = s.address := rfl
@[simp] theorem shiftFlags_mem (k : Bool) (r : Byte) (s : State) : (shiftFlags k r s).mem = s.mem := rfl
@[simp] theorem shiftFlags_trace (k : Bool) (r : Byte) (s : State) : (shiftFlags k r s).trace = s.trace := rfl

@[simp] theorem stage_a (s : State) : s.stage.a = s.a := rfl
@[simp] theorem stage_x (s : State) : s.stage.x = s.x := rfl
@[simp] theorem stage_y (s : State) : s.stage.y = s.y := rfl
@[simp] theorem stage_sp (s : State) : s.stage.sp = s.sp := rfl
@[simp] theorem stage_pc (s : State) : s.stage.pc = s.pc := rfl
@[simp] theorem stage_c (s : State) : s.stage.c = s.c := rfl
@[simp] theorem stage_z (s : State) : s.stage.z = s.z := rfl
@[simp] theorem stage_i (s : State) : s.stage.i = s.i := rfl
@[simp] theorem stage_d (s : State) : s.stage.d = s.d := rfl
@[simp] theorem stage_v (s : State) : s.stage.v = s.v := rfl
@[simp] theorem stage_n (s : State) : s.stage.n = s.n := rfl
@[simp] theorem stage_resetPending (s : State) : s.stage.resetPending = s.resetPending := rfl
@[simp] theorem stage_nmiPending (s : State) : s.stage.nmiPending = s.nmiPending := rfl
@[simp] theorem stage_irqPending (s : State) : s.stage.irqPending = s.irqPending := rfl
@[simp] theorem stage_halted (s : State) : s.stage.halted = s.halted := rfl
@[simp] theorem stage_cycles (s : State) : s.stage.cycles = s.cycles := rfl
@[simp] theorem stage_op (s : State) : s.stage.op = s.mem.read s.pc := rfl
@[simp] theorem stage_data (s : State) : s.stage.data = s.mem.read (s.pc + 1) := rfl
@[simp] theorem stage_address (s : State) : s.stage.address = joinBytes (s.mem.read (s.pc + 1)) (s.mem.read (s.pc + 2)) := rfl
@[simp] theorem stage_mem (s : State) : s.stage.mem = s.mem := rfl
@[simp] theorem stage_trace (s : State) : s.stage.trace = s.trace ++ [.read s.pc] ++ [.read (s.pc + 1)] ++ [.read (s.pc + 2)] := rfl

end Sys2Proof.Machine
end

