-- ==== Sys2Proof/Laws/Memory.lean ====
section
/-! SUPPORT. The memory list: a read after a write, in any list, and the canonical form `Memory.wf`, which every memory
operation keeps. -/

namespace Sys2Proof.Machine

theorem read_erase (m : Memory) (k : Nat) (a : Word) :
    (Memory.erase m k).read a = if a.toNat = k then Config.unlistedByte else m.read a := by
  induction m with
  | nil => simp [Memory.erase, Memory.read]
  | cons e rest ih =>
    obtain ⟨k', b⟩ := e
    by_cases h : k' = k
    · subst h
      simp only [Memory.erase, Memory.read, if_true, ih]
      by_cases h2 : a.toNat = k'
      · simp [h2]
      · simp [h2, Ne.symm h2]
    · simp only [Memory.erase, Memory.read, if_neg h, ih]
      by_cases h2 : a.toNat = k
      · simp [h2, h]
      · simp [h2]

/-- No entry of the list is for the address. -/
def Memory.absent (m : Memory) (k : Nat) : Prop := ∀ e ∈ m, e.1 ≠ k

theorem erase_absent (m : Memory) (k : Nat) : (Memory.erase m k).absent k := by
  induction m with
  | nil => simp [Memory.erase, Memory.absent]
  | cons e rest ih =>
    obtain ⟨k', b⟩ := e
    by_cases h : k' = k
    · simpa [Memory.erase, h] using ih
    · simp only [Memory.erase, if_neg h]
      intro e he
      rcases List.mem_cons.1 he with rfl | he
      · exact h
      · exact ih e he

theorem read_insert (m : Memory) (k : Nat) (v : Byte) (a : Word) (hm : m.absent k) :
    (Memory.insert m k v).read a = if a.toNat = k then v else m.read a := by
  induction m with
  | nil =>
    by_cases h : a.toNat = k
    · simp [Memory.insert, Memory.read, h]
    · simp [Memory.insert, Memory.read, h, Ne.symm h]
  | cons e rest ih =>
    obtain ⟨k', b⟩ := e
    have hk : k' ≠ k := hm (k', b) (by simp)
    have hr : Memory.absent rest k := fun e he => hm e (by simp [he])
    by_cases hlt : k < k'
    · simp only [Memory.insert, if_pos hlt]
      by_cases h : a.toNat = k
      · simp [Memory.read, h]
      · simp [Memory.read, h, Ne.symm h]
    · simp only [Memory.insert, if_neg hlt, Memory.read, ih hr]
      by_cases h : a.toNat = k
      · simp [h, hk]
      · simp [h]

/-- A read after a write: the byte written at that address, every other byte as before (R63). -/
@[simp] theorem read_write (m : Memory) (a b : Word) (v : Byte) :
    (m.write a v).read b = if b = a then v else m.read b := by
  have hab : b.toNat = a.toNat ↔ b = a := BitVec.toNat_inj
  unfold Memory.write
  split
  · next h => simp [read_erase, hab, h]
  · rw [read_insert _ _ _ _ (erase_absent m a.toNat), read_erase]
    simp only [hab]
    by_cases h : b = a <;> simp [h]

theorem wfFrom_mono {lo lo' : Nat} {m : Memory} (h : lo' ≤ lo) (hm : Memory.wfFrom lo m = true) :
    Memory.wfFrom lo' m = true := by
  cases m with
  | nil => rfl
  | cons e rest =>
    obtain ⟨k, b⟩ := e
    simp only [Memory.wfFrom, Bool.and_eq_true, decide_eq_true_eq] at hm ⊢
    exact ⟨⟨⟨by omega, hm.1.1.2⟩, hm.1.2⟩, hm.2⟩

theorem wfFrom_erase {lo : Nat} {m : Memory} (k : Nat) (hm : Memory.wfFrom lo m = true) :
    Memory.wfFrom lo (Memory.erase m k) = true := by
  induction m generalizing lo with
  | nil => rfl
  | cons e rest ih =>
    obtain ⟨k', b⟩ := e
    simp only [Memory.wfFrom, Bool.and_eq_true, decide_eq_true_eq] at hm
    by_cases h : k' = k
    · simp only [Memory.erase, if_pos h]
      exact wfFrom_mono (by omega) (ih hm.2)
    · simp only [Memory.erase, if_neg h, Memory.wfFrom, Bool.and_eq_true, decide_eq_true_eq]
      exact ⟨hm.1, ih hm.2⟩

theorem wfFrom_insert {lo : Nat} {m : Memory} {k : Nat} {v : Byte} (hlo : lo ≤ k) (hk : k < 65536)
    (hv : v ≠ Config.unlistedByte) (ha : m.absent k) (hm : Memory.wfFrom lo m = true) :
    Memory.wfFrom lo (Memory.insert m k v) = true := by
  induction m generalizing lo with
  | nil => simp [Memory.insert, Memory.wfFrom, hlo, hk, hv]
  | cons e rest ih =>
    obtain ⟨k', b⟩ := e
    have hne : k' ≠ k := ha (k', b) (by simp)
    have har : Memory.absent rest k := fun e he => ha e (by simp [he])
    simp only [Memory.wfFrom, Bool.and_eq_true, decide_eq_true_eq] at hm
    by_cases h : k < k'
    · simp only [Memory.insert, if_pos h, Memory.wfFrom, Bool.and_eq_true, decide_eq_true_eq, bne_iff_ne]
      exact ⟨⟨⟨hlo, hk⟩, hv⟩, ⟨⟨by omega, hm.1.1.2⟩, by simpa using hm.1.2⟩, hm.2⟩
    · simp only [Memory.insert, if_neg h, Memory.wfFrom, Bool.and_eq_true, decide_eq_true_eq]
      exact ⟨hm.1, ih (by omega) har hm.2⟩

/-- A write keeps the canonical form. -/
theorem wf_write {m : Memory} (a : Word) (v : Byte) (hm : m.wf = true) : (m.write a v).wf = true := by
  unfold Memory.write Memory.wf
  split
  · exact wfFrom_erase _ hm
  · next hv =>
    exact wfFrom_insert (Nat.zero_le _) a.isLt hv (erase_absent m a.toNat) (wfFrom_erase _ hm)

theorem wf_write16 {m : Memory} (a v : Word) (hm : m.wf = true) : (m.write16 a v).wf = true :=
  wf_write _ _ (wf_write _ _ hm)

theorem wf_writeFrom {m : Memory} (a : Word) (bs : List Byte) (hm : m.wf = true) :
    (m.writeFrom a bs).wf = true := by
  induction bs generalizing m a with
  | nil => exact hm
  | cons b rest ih => exact ih (a + 1) (wf_write a b hm)

/-- Placing a program by the host's `load` keeps the canonical form. -/
theorem loadProgram_memOk {s : State} (src : List Byte) (base : Word) (size : Nat) (h : s.memOk) :
    (s.loadProgram src base size).memOk :=
  wf_writeFrom _ _ h

/-- Placing a word for the next fetch keeps the canonical form. -/
theorem withFetchWord_memOk {s : State} (nbits w : Nat) (h : s.memOk) : (s.withFetchWord nbits w).memOk :=
  wf_writeFrom _ _ h

end Sys2Proof.Machine
end

