-- ==== Sys2Proof/Laws/Words.lean ====
section
/-! SUPPORT. Bytes and words as numbers, and the packed status byte bit by bit. -/

namespace Sys2Proof.Machine

theorem joinBytes_toNat (lo hi : Byte) : (joinBytes lo hi).toNat = lo.toNat + 256 * hi.toNat := by
  have h : (joinBytes lo hi).toNat = hi.toNat <<< 8 ||| lo.toNat := BitVec.toNat_append hi lo
  rw [h, ← Nat.shiftLeft_add_eq_or_of_lt (by omega), Nat.shiftLeft_eq]
  omega

theorem lo8_toNat (w : Word) : (lo8 w).toNat = w.toNat % 256 := by simp [lo8]

theorem hi8_toNat (w : Word) : (hi8 w).toNat = w.toNat / 256 := by
  simp [hi8, Nat.shiftRight_eq_div_pow]
  omega

@[simp] theorem lo8_joinBytes (lo hi : Byte) : lo8 (joinBytes lo hi) = lo := by
  apply BitVec.eq_of_toNat_eq
  rw [lo8_toNat, joinBytes_toNat]
  omega

@[simp] theorem hi8_joinBytes (lo hi : Byte) : hi8 (joinBytes lo hi) = hi := by
  apply BitVec.eq_of_toNat_eq
  rw [hi8_toNat, joinBytes_toNat]
  omega

@[simp] theorem joinBytes_lo8_hi8 (w : Word) : joinBytes (lo8 w) (hi8 w) = w := by
  apply BitVec.eq_of_toNat_eq
  rw [joinBytes_toNat, lo8_toNat, hi8_toNat]
  omega

theorem zext16_toNat (b : Byte) : (zext16 b).toNat = b.toNat := by
  simp [zext16]
  omega

/-- The top bit of a byte as a comparison. -/
theorem getLsbD_seven (r : Byte) : r.getLsbD 7 = decide (128 ≤ r.toNat) := by
  have := BitVec.msb_eq_decide r
  simpa [BitVec.msb_eq_getLsbD_last] using this

/-- `SetZN` in the terms claims use (R43). -/
theorem withZN_eq (r : Byte) (s : State) :
    withZN r s = { s with z := r == 0, n := r.getLsbD 7 } := by
  rw [getLsbD_seven]
  rfl

/-- The packed status depends on the six flags alone. -/
theorem statusRead_congr {s t : State} (hc : s.c = t.c) (hz : s.z = t.z) (hi : s.i = t.i) (hd : s.d = t.d)
    (hv : s.v = t.v) (hn : s.n = t.n) : statusRead s = statusRead t := by
  simp only [statusRead, hc, hz, hi, hd, hv, hn]

/-- Every bit of the packed status (R26): the flags, and 1 in bits 4 and 5 (R34). -/
theorem statusRead_bits (s : State) :
    (statusRead s).getLsbD 0 = s.c ∧ (statusRead s).getLsbD 1 = s.z ∧ (statusRead s).getLsbD 2 = s.i ∧
    (statusRead s).getLsbD 3 = s.d ∧ (statusRead s).getLsbD 4 = true ∧ (statusRead s).getLsbD 5 = true ∧
    (statusRead s).getLsbD 6 = s.v ∧ (statusRead s).getLsbD 7 = s.n := by
  unfold statusRead
  cases s.n <;> cases s.v <;> cases s.d <;> cases s.i <;> cases s.z <;> cases s.c <;> decide

/-! ### Offsets from a stack pointer -/

theorem sub_one_sub_one (x : Byte) : x - 1 - 1 = x - 2 := by bv_omega

theorem sub_two_sub_one (x : Byte) : x - 2 - 1 = x - 3 := by bv_omega

theorem add_one_add_one (x : Byte) : x + 1 + 1 = x + 2 := by bv_omega

theorem add_two_add_one (x : Byte) : x + 2 + 1 = x + 3 := by bv_omega

theorem sub_one_ne (x : Byte) : x - 1 ≠ x := by bv_omega

theorem sub_two_ne (x : Byte) : x - 2 ≠ x := by bv_omega

theorem sub_two_ne_sub_one (x : Byte) : x - 2 ≠ x - 1 := by bv_omega

end Sys2Proof.Machine
end

