-- ==== Sys2Proof/Laws/Ops.lean ====
section
/-! SUPPORT. What each shared operation answers, said once as an equation of states: ticks, word reads, stack words,
the resolver and the loads, the instruction shapes, interrupt entry and return, and the service sequences. -/

namespace Sys2Proof.Machine

/-- `EmitTicks` in closed form (R288). -/
theorem emitTicks_eq (k : Nat) (s : State) :
    s.emitTicks k = { s with cycles := s.cycles + k, trace := s.trace ++ tickEvents s.cycles k } := by
  induction k generalizing s with
  | zero => simp [State.emitTicks, tickEvents]
  | succ k ih => simp [State.emitTicks, ih, tickEvents, Nat.add_assoc, Nat.add_comm 1 k]

/-- The end of a rule: PC, cost and events put on a state whose registers and memory are already final. -/
theorem emitTicks_ends (k : Nat) (s : State) : s.emitTicks k = ends s s.pc k s.trace := emitTicks_eq k s

@[simp] theorem read16_fst (p : Word) (s : State) :
    (s.read16 p).1 = joinBytes (s.mem.read p) (s.mem.read (p + 1)) := rfl

@[simp] theorem read16_snd (p : Word) (s : State) : (s.read16 p).2 = s.emit [.read p, .read (p + 1)] := by
  simp [State.read16, State.memRead, State.emit]

theorem emit_emit (es fs : List Event) (s : State) : (s.emit es).emit fs = s.emit (es ++ fs) := by
  simp [State.emit]

/-! ### The stack -/

theorem stackAddr_toNat (sp : Byte) : (stackAddr sp).toNat = 256 + sp.toNat := by
  simp [stackAddr, zext16, BitVec.toNat_add, BitVec.toNat_setWidth]
  omega

@[simp] theorem stackAddr_inj {p q : Byte} : stackAddr p = stackAddr q ↔ p = q := by
  rw [← BitVec.toNat_inj, stackAddr_toNat, stackAddr_toNat, ← BitVec.toNat_inj]
  omega

/-- A vector lies outside the stack page, so a push never changes it (R67). -/
theorem stackAddr_ne {sp : Byte} {a : Word} (h : 512 ≤ a.toNat) : a ≠ stackAddr sp := by
  intro e
  have := stackAddr_toNat sp
  rw [← e] at this
  omega

/-- `Push(hi); Push(lo)` as one update: two bytes of the stack page, SP down by two (R61). -/
theorem pushWord_eq (w : Word) (s : State) :
    s.pushWord w =
      { s with
        sp := s.sp - 1 - 1
        mem := (s.mem.write (stackAddr s.sp) (hi8 w)).write (stackAddr (s.sp - 1)) (lo8 w)
        trace := s.trace ++ [.write (stackAddr s.sp) (hi8 w), .write (stackAddr (s.sp - 1)) (lo8 w)] } := by
  simp [State.pushWord, State.push, State.memWrite]

/-- Every byte of memory after two pushes (R61, R63). -/
theorem read_pushTwo (m : Memory) (sp : Byte) (h l : Byte) (b : Word) :
    ((m.write (stackAddr sp) h).write (stackAddr (sp - 1)) l).read b =
      if b = stackAddr sp then h else if b = stackAddr (sp - 1) then l else m.read b := by
  simp only [read_write]
  by_cases hb : b = stackAddr sp
  · simp only [hb, stackAddr_inj, (sub_one_ne sp).symm, if_true, if_false]
  · simp only [hb, if_false]

/-- Every byte of memory after three pushes (R61, R63). -/
theorem read_pushThree (m : Memory) (sp : Byte) (h l v : Byte) (b : Word) :
    (((m.write (stackAddr sp) h).write (stackAddr (sp - 1)) l).write (stackAddr (sp - 2)) v).read b =
      if b = stackAddr sp then h
      else if b = stackAddr (sp - 1) then l
      else if b = stackAddr (sp - 2) then v else m.read b := by
  rw [read_write, read_pushTwo]
  by_cases hb : b = stackAddr sp
  · simp only [hb, stackAddr_inj, (sub_two_ne sp).symm, if_true, if_false]
  · by_cases hb' : b = stackAddr (sp - 1)
    · simp only [hb', stackAddr_inj, (sub_two_ne_sub_one sp).symm, if_true, if_false]
    · simp only [hb, hb', if_false]

@[simp] theorem pullWord_fst (s : State) :
    s.pullWord.1 = joinBytes (s.mem.read (stackAddr (s.sp + 1))) (s.mem.read (stackAddr (s.sp + 1 + 1))) := rfl

/-- `lo = Pull(); hi = Pull()` as one update (R62). -/
@[simp] theorem pullWord_snd (s : State) :
    s.pullWord.2 =
      { s with
        sp := s.sp + 1 + 1
        trace := s.trace ++ [.read (stackAddr (s.sp + 1)), .read (stackAddr (s.sp + 1 + 1))] } := by
  simp [State.pullWord, State.pull, State.memRead, State.emit]

/-! ### Resolving and loading -/

theorem ptr16_advance (w : Bool) (p : Byte) (k : Word) (s : State) :
    ((s.advance k).ptr16 w p).1 = (s.ptr16 w p).1 ∧ ((s.advance k).ptr16 w p).2 = (s.ptr16 w p).2.advance k := by
  unfold State.ptr16
  cases w <;> exact ⟨rfl, rfl⟩

/-- Resolving a mode changes the trace alone. -/
theorem resolve_st (m : MemMode) (s : State) : (s.resolve m).st = { s with trace := (s.resolve m).st.trace } := by
  cases m <;> rfl

/-- The PC advance before the operation (R101) does not move any effective address. -/
@[simp] theorem resolve_advance (m : MemMode) (k : Word) (s : State) :
    (s.advance k).resolve m = ⟨(s.resolve m).ea, (s.resolve m).cross, (s.resolve m).st.advance k⟩ := by
  cases m <;> rfl

theorem loadMem_eq (m : MemMode) (s : State) :
    s.loadMem m =
      ⟨s.mem.read (s.resolve m).ea, (s.resolve m).cross,
        { s with trace := (s.resolve m).st.trace ++ [.read (s.resolve m).ea] }⟩ := by
  cases m <;> rfl

/-- Loading an operand changes the trace alone. -/
theorem load_st (src : Src) (s : State) : (s.load src).st = { s with trace := (s.load src).st.trace } := by
  cases src with
  | imm v => rfl
  | mem m => simp [State.load, loadMem_eq]

@[simp] theorem load_advance (src : Src) (k : Word) (s : State) :
    (s.advance k).load src = ⟨(s.load src).value, (s.load src).cross, (s.load src).st.advance k⟩ := by
  cases src with
  | imm v => rfl
  | mem m => cases m <;> rfl

/-! ### The instruction shapes -/

/-- A read-class instruction: its action on the loaded byte, in a state whose PC has advanced and whose trace holds the
reads, then the charge. -/
theorem readOp_eq (src : Src) (act : Byte → State → State) (s : State) :
    readOp src act s =
      .next ((act (s.load src).value { s with pc := s.pc + srcLen src, trace := (s.load src).st.trace }).emitTicks
        (readCycles src + (s.load src).cross.toNat)) := by
  unfold readOp
  rw [load_advance, load_st]
  rfl

/-- A store-class instruction: one byte of memory, PC, the counter and the trace. -/
theorem storeOp_eq (m : MemMode) (v : Byte) (s : State) :
    storeOp m v s =
      .next (ends { s with mem := s.mem.write (s.resolve m).ea v } (s.pc + memLen m) (storeCycles m)
        ((s.resolve m).st.trace ++ [.write (s.resolve m).ea v])) := by
  simp only [storeOp, resolve_advance, emitTicks_ends]
  rw [resolve_st]
  rfl

/-- A read-modify-write on memory: one byte of memory, then the flags, then the charge. -/
theorem rmwOp_mem_eq (m : MemMode) (result : Byte → Byte) (flags : Byte → Byte → State → State) (s : State) :
    rmwOp (.mem m) result flags s =
      .next ((flags (s.mem.read (s.resolve m).ea) (result (s.mem.read (s.resolve m).ea))
        { s with
          pc := s.pc + memLen m
          mem := s.mem.write (s.resolve m).ea (result (s.mem.read (s.resolve m).ea))
          trace := (s.resolve m).st.trace ++ [.read (s.resolve m).ea] ++
            [.write (s.resolve m).ea (result (s.mem.read (s.resolve m).ea))] }).emitTicks (rmwCycles (.mem m))) := by
  simp only [rmwOp]
  rw [resolve_advance, resolve_st]
  rfl

theorem rmwOp_acc_eq (result : Byte → Byte) (flags : Byte → Byte → State → State) (s : State) :
    rmwOp .acc result flags s =
      .next ((flags s.a (result s.a) { s with a := result s.a, pc := s.pc + 1 }).emitTicks 2) := rfl

/-- A branch is a change of PC, the counter and the trace. -/
theorem branch_eq (cond : Bool) (off : Byte) (s : State) :
    branch cond off s =
      .next (if cond then
        ends s (s.pc + 2 + sext16 off) (if hi8 (s.pc + 2 + sext16 off) = hi8 (s.pc + 2) then 3 else 4) s.trace
      else ends s (s.pc + 2) 2 s.trace) := by
  cases cond with
  | false => simp [branch, emitTicks_eq, ends]
  | true =>
    simp only [branch, State.advance, branchTarget, pageCross, if_true, emitTicks_eq, ends]
    generalize s.pc + 2 + sext16 off = target
    by_cases h : hi8 target = hi8 (s.pc + 2)
    · simp [bne, h]
    · rw [if_neg h, show (hi8 target != hi8 (s.pc + 2)) = true from bne_iff_ne.2 h]
      rfl

/-! ### Taking an interrupt and returning from one -/

/-- Interrupt entry as one update: three bytes of the stack page, SP down by three, I set, PC from the vector, whose two
bytes the pushes cannot have changed. -/
theorem enterInterrupt_eq (vector : Word) (b : Byte) (s : State)
    (h : 512 ≤ vector.toNat) (h' : 512 ≤ (vector + 1).toNat) :
    s.enterInterrupt vector b =
      { s with
        sp := s.sp - 1 - 1 - 1
        i := true
        pc := joinBytes (s.mem.read vector) (s.mem.read (vector + 1))
        mem := ((s.mem.write (stackAddr s.sp) (hi8 s.pc)).write (stackAddr (s.sp - 1)) (lo8 s.pc)).write
          (stackAddr (s.sp - 1 - 1)) b
        trace := s.trace ++ [.write (stackAddr s.sp) (hi8 s.pc), .write (stackAddr (s.sp - 1)) (lo8 s.pc),
          .write (stackAddr (s.sp - 1 - 1)) b, .read vector, .read (vector + 1)] } := by
  generalize hn : vector + 1 = next at h'
  simp only [State.enterInterrupt, pushWord_eq, State.push, State.memWrite, State.emit, read16_fst, read16_snd, hn,
    read_write, if_neg (stackAddr_ne h), if_neg (stackAddr_ne h'), List.append_assoc, List.cons_append, List.nil_append]

/-- Return from interrupt as one update: the six flags and PC from the stack, SP up by three (R223). -/
theorem returnFromInterrupt_eq (s : State) :
    s.returnFromInterrupt =
      { statusWrite (s.mem.read (stackAddr (s.sp + 1))) s with
        sp := s.sp + 1 + 1 + 1
        pc := joinBytes (s.mem.read (stackAddr (s.sp + 1 + 1))) (s.mem.read (stackAddr (s.sp + 1 + 1 + 1)))
        trace := s.trace ++ [.read (stackAddr (s.sp + 1)), .read (stackAddr (s.sp + 1 + 1)),
          .read (stackAddr (s.sp + 1 + 1 + 1))] } := by
  simp [State.returnFromInterrupt, statusWrite, State.pull, State.memRead, State.emit, State.pullWord]

theorem irqVector_far : 512 ≤ irqVector.toNat ∧ 512 ≤ (irqVector + 1).toNat := by decide

theorem nmiVector_far : 512 ≤ nmiVector.toNat ∧ 512 ≤ (nmiVector + 1).toNat := by decide

/-! ### The step -/

/-- The staging reads as one update: the three latches and the trace (R82). -/
theorem stage_eq (s : State) :
    s.stage =
      { s with
        op := s.mem.read s.pc
        data := s.mem.read (s.pc + 1)
        address := joinBytes (s.mem.read (s.pc + 1)) (s.mem.read (s.pc + 2))
        trace := s.trace ++ [.read s.pc, .read (s.pc + 1), .read (s.pc + 2)] } := by
  simp [State.stage, State.memRead, State.emit]

/-- Every bit of the status that NMI and IRQ service push (R276, R283): the flags, 0 in bit 4 and 1 in bit 5. -/
theorem serviceStatus_bits (s : State) :
    (serviceStatus s).getLsbD 0 = s.c ∧ (serviceStatus s).getLsbD 1 = s.z ∧ (serviceStatus s).getLsbD 2 = s.i ∧
    (serviceStatus s).getLsbD 3 = s.d ∧ (serviceStatus s).getLsbD 4 = false ∧ (serviceStatus s).getLsbD 5 = true ∧
    (serviceStatus s).getLsbD 6 = s.v ∧ (serviceStatus s).getLsbD 7 = s.n := by
  simp only [serviceStatus, BitVec.getLsbD_and, statusRead_bits s]
  simp

/-- NMI service as one update (R276, R277). -/
theorem serviceNmi_eq (s : State) :
    s.serviceNmi =
      ends { s with
        sp := s.sp - 3
        i := true
        nmiPending := false
        irqPending := false
        mem := ((s.mem.write (stackAddr s.sp) (hi8 s.pc)).write (stackAddr (s.sp - 1)) (lo8 s.pc)).write
          (stackAddr (s.sp - 2)) (serviceStatus s) }
        (joinBytes (s.mem.read nmiVector) (s.mem.read (nmiVector + 1))) 7
        (s.trace ++ [.write (stackAddr s.sp) (hi8 s.pc), .write (stackAddr (s.sp - 1)) (lo8 s.pc),
          .write (stackAddr (s.sp - 2)) (serviceStatus s), .read nmiVector, .read (nmiVector + 1)]) := by
  simp only [State.serviceNmi, emitTicks_eq, enterInterrupt_eq _ _ _ nmiVector_far.1 nmiVector_far.2, sub_one_sub_one,
    sub_two_sub_one, ends]

/-- IRQ service as one update (R276, R278). -/
theorem serviceIrq_eq (s : State) :
    s.serviceIrq =
      ends { s with
        sp := s.sp - 3
        i := true
        irqPending := false
        mem := ((s.mem.write (stackAddr s.sp) (hi8 s.pc)).write (stackAddr (s.sp - 1)) (lo8 s.pc)).write
          (stackAddr (s.sp - 2)) (serviceStatus s) }
        (joinBytes (s.mem.read irqVector) (s.mem.read (irqVector + 1))) 7
        (s.trace ++ [.write (stackAddr s.sp) (hi8 s.pc), .write (stackAddr (s.sp - 1)) (lo8 s.pc),
          .write (stackAddr (s.sp - 2)) (serviceStatus s), .read irqVector, .read (irqVector + 1)]) := by
  simp only [State.serviceIrq, emitTicks_eq, enterInterrupt_eq _ _ _ irqVector_far.1 irqVector_far.2, sub_one_sub_one,
    sub_two_sub_one, ends]

/-- The branch taken does not depend on the trace, which `beginStep` clears. -/
@[simp] theorem stepBranch_beginStep (s : State) : s.beginStep.stepBranch = s.stepBranch := rfl

/-- The reset sequence as one update (R310, R311). -/
theorem serviceReset_eq (s : State) :
    s.serviceReset =
      { s with
        sp := s.sp - 3
        i := true
        pc := joinBytes (s.mem.read resetVector) (s.mem.read (resetVector + 1))
        cycles := 7
        resetPending := false
        halted := false
        nmiPending := false
        irqPending := false
        trace := s.trace ++ [.read resetVector, .read (resetVector + 1)] ++ tickEvents 0 7 } := by
  simp [State.serviceReset, emitTicks_eq]

/-- What a step can do: one of the five branches of R270. -/
theorem step_cases (s : State) :
    (s.stepBranch = .reset ∧ s.resetPending = true ∧ step s = .next s.beginStep.serviceReset) ∨
    (s.stepBranch = .halted ∧ s.resetPending = false ∧ s.halted = true ∧ step s = .next s.beginStep.haltedStep) ∨
    (s.stepBranch = .nmi ∧ s.resetPending = false ∧ s.halted = false ∧ s.nmiPending = true ∧
      step s = .next s.beginStep.serviceNmi) ∨
    (s.stepBranch = .irq ∧ s.resetPending = false ∧ s.halted = false ∧ s.nmiPending = false ∧
      s.irqPending = true ∧ s.i = false ∧ step s = .next s.beginStep.serviceIrq) ∨
    (s.stepBranch = .instruction ∧ s.resetPending = false ∧ s.halted = false ∧ s.nmiPending = false ∧
      (s.irqPending = false ∨ s.i = true) ∧
      step s = exec s.beginStep.stage.stagedInstr s.beginStep.stage) := by
  unfold step State.stepBranch
  cases s.resetPending <;> cases s.halted <;> cases s.nmiPending <;> cases s.irqPending <;> cases s.i <;> simp

end Sys2Proof.Machine
end

