-- ==== Sys2Proof/Laws/Exec.lean ====
section
/-! SUPPORT. What any instruction can do to the trace, the counter, the memory, the latches and the staging, said once
for all of `exec`. -/

namespace Sys2Proof.Machine

/-- The bookkeeping every instruction obeys: it appends events and then ticks to the trace, one tick per cycle, its
memory is what its `write` events make of the one before, and it leaves the request and staging latches alone. `halts`
says whether it sets the halt latch. -/
def Bookkeeping (halts : Bool) (s t : State) : Prop :=
  (∃ es k, t.trace = s.trace ++ es ++ tickEvents s.cycles k ∧ t.cycles = s.cycles + k ∧ tickCount es = 0 ∧
    t.mem = replayWrites es s.mem) ∧
  t.resetPending = s.resetPending ∧ t.nmiPending = s.nmiPending ∧ t.irqPending = s.irqPending ∧
  t.op = s.op ∧ t.data = s.data ∧ t.address = s.address ∧ t.halted = (s.halted || halts)

/-- Whether an instruction sets the halt latch (R261). -/
def setsHalt : Instr → Bool
  | .kil _ => true
  | _ => false

theorem tickCount_append (es fs : List Event) : tickCount (es ++ fs) = tickCount es + tickCount fs := by
  simp [tickCount]

@[simp] theorem tickCount_tickEvents (c k : Nat) : tickCount (tickEvents c k) = k := by
  induction k generalizing c with
  | zero => rfl
  | succ k ih =>
    have := tickCount_append [Event.tick (c + 1)] (tickEvents (c + 1) k)
    rw [ih] at this
    exact this.trans (Nat.add_comm 1 k)

theorem replayWrites_append (es fs : List Event) (m : Memory) :
    replayWrites (es ++ fs) m = replayWrites fs (replayWrites es m) := by
  induction es generalizing m with
  | nil => rfl
  | cons e rest ih => cases e <;> exact ih _

@[simp] theorem replayWrites_tickEvents (c k : Nat) (m : Memory) : replayWrites (tickEvents c k) m = m := by
  induction k generalizing c with
  | zero => rfl
  | succ k ih => exact ih _

/-- Resolving a mode appends reads, and nothing else, to the trace. -/
theorem resolve_trace (m : MemMode) (s : State) :
    ∃ es, (s.resolve m).st.trace = s.trace ++ es ∧ tickCount es = 0 ∧ ∀ mem, replayWrites es mem = mem := by
  cases m with
  | indx d =>
    refine ⟨[.read (zext16 (d + s.x)), .read (zext16 (d + s.x) + 1)], ?_, rfl, fun _ => rfl⟩
    simp [State.resolve, State.ptr16, Config.zpPointerWrap, State.emit]
  | indy d =>
    refine ⟨[.read (zext16 d), .read (zext16 d + 1)], ?_, rfl, fun _ => rfl⟩
    simp [State.resolve, State.ptr16, Config.zpPointerWrap, State.emit]
  | _ => exact ⟨[], (List.append_nil _).symm, rfl, fun _ => rfl⟩

/-- So does loading an operand. -/
theorem load_trace (src : Src) (s : State) :
    ∃ es, (s.load src).st.trace = s.trace ++ es ∧ tickCount es = 0 ∧ ∀ mem, replayWrites es mem = mem := by
  cases src with
  | imm v => exact ⟨[], (List.append_nil _).symm, rfl, fun _ => rfl⟩
  | mem m =>
    obtain ⟨es, h, hn, hw⟩ := resolve_trace m s
    refine ⟨es ++ [.read (s.resolve m).ea], ?_, ?_, fun mem => ?_⟩
    · simp only [State.load, loadMem_eq, h, List.append_assoc]
    · rw [tickCount_append, hn]; rfl
    · rw [replayWrites_append, hw]; rfl

/-- An effect that touches registers and flags only, as the actions of the instruction shapes do. -/
def RegistersOnly (s t : State) : Prop :=
  t.trace = s.trace ∧ t.cycles = s.cycles ∧ t.mem = s.mem ∧
  t.resetPending = s.resetPending ∧ t.nmiPending = s.nmiPending ∧ t.irqPending = s.irqPending ∧
  t.op = s.op ∧ t.data = s.data ∧ t.address = s.address ∧ t.halted = s.halted

/-- A state that made no tick yet, and then its charge. -/
theorem Bookkeeping.charge {s t : State} (es : List Event) (k : Nat) (ht : t.trace = s.trace ++ es)
    (hc : t.cycles = s.cycles) (hn : tickCount es = 0) (hm : t.mem = replayWrites es s.mem)
    (hl : t.resetPending = s.resetPending ∧ t.nmiPending = s.nmiPending ∧ t.irqPending = s.irqPending ∧
      t.op = s.op ∧ t.data = s.data ∧ t.address = s.address ∧ t.halted = s.halted) :
    Bookkeeping false s (t.emitTicks k) := by
  rw [emitTicks_eq]
  obtain ⟨h1, h2, h3, h4, h5, h6, h7⟩ := hl
  exact ⟨⟨es, k, by rw [ht, hc], by rw [hc], hn, hm⟩, h1, h2, h3, h4, h5, h6, h7.trans (Bool.or_false _).symm⟩

theorem readOp_bookkeeping (src : Src) (act : Byte → State → State) (s : State)
    (h : ∀ m t, RegistersOnly t (act m t)) : ∃ t, readOp src act s = .next t ∧ Bookkeeping false s t := by
  obtain ⟨es, ht, hn, hw⟩ := load_trace src s
  obtain ⟨k1, k2, k3, k4⟩ :=
    h (s.load src).value { s with pc := s.pc + srcLen src, trace := (s.load src).st.trace }
  exact ⟨_, readOp_eq _ _ _, .charge es _ (k1.trans ht) k2 hn (k3.trans (hw _).symm) k4⟩

theorem storeOp_bookkeeping (m : MemMode) (v : Byte) (s : State) :
    ∃ t, storeOp m v s = .next t ∧ Bookkeeping false s t := by
  obtain ⟨es, ht, hn, hw⟩ := resolve_trace m s
  refine ⟨_, storeOp_eq _ _ _, ⟨es ++ [.write (s.resolve m).ea v], storeCycles m, ?_, rfl, ?_, ?_⟩,
    rfl, rfl, rfl, rfl, rfl, rfl, (Bool.or_false _).symm⟩
  · simp only [ends, ht, List.append_assoc]
  · rw [tickCount_append, hn]; rfl
  · rw [replayWrites_append, hw]; rfl

theorem rmwOp_bookkeeping (dst : Dst) (result : Byte → Byte) (flags : Byte → Byte → State → State) (s : State)
    (h : ∀ m r t, RegistersOnly t (flags m r t)) :
    ∃ t, rmwOp dst result flags s = .next t ∧ Bookkeeping false s t := by
  cases dst with
  | acc =>
    obtain ⟨k1, k2, k3, k4⟩ := h s.a (result s.a) { s with a := result s.a, pc := s.pc + 1 }
    exact ⟨_, rmwOp_acc_eq _ _ _, .charge [] _ (k1.trans (List.append_nil _).symm) k2 rfl k3 k4⟩
  | mem m =>
    obtain ⟨es, ht, hn, hw⟩ := resolve_trace m s
    obtain ⟨k1, k2, k3, k4⟩ := h (s.mem.read (s.resolve m).ea) (result (s.mem.read (s.resolve m).ea))
      { s with
        pc := s.pc + memLen m
        mem := s.mem.write (s.resolve m).ea (result (s.mem.read (s.resolve m).ea))
        trace := (s.resolve m).st.trace ++ [.read (s.resolve m).ea] ++
          [.write (s.resolve m).ea (result (s.mem.read (s.resolve m).ea))] }
    refine ⟨_, rmwOp_mem_eq _ _ _ _, .charge
      (es ++ [.read (s.resolve m).ea] ++ [.write (s.resolve m).ea (result (s.mem.read (s.resolve m).ea))]) _
      (k1.trans ?_) k2 ?_ (k3.trans ?_) k4⟩
    · simp only [ht, List.append_assoc]
    · rw [tickCount_append, tickCount_append, hn]; rfl
    · rw [replayWrites_append, replayWrites_append, hw]; rfl

theorem branch_bookkeeping (cond : Bool) (off : Byte) (s : State) :
    ∃ t, branch cond off s = .next t ∧ Bookkeeping false s t := by
  refine ⟨_, branch_eq _ _ _, ?_⟩
  split <;>
    exact ⟨⟨[], _, by simp only [ends, List.append_nil], rfl, rfl, rfl⟩,
      rfl, rfl, rfl, rfl, rfl, rfl, (Bool.or_false _).symm⟩

/-- A one-byte instruction that touches registers and flags only. -/
theorem implied_bookkeeping (k : Nat) (act : State → State) (s : State) (h : ∀ t, RegistersOnly t (act t)) :
    ∃ t, implied k act s = .next t ∧ Bookkeeping false s t := by
  obtain ⟨k1, k2, k3, k4⟩ := h (s.advance 1)
  exact ⟨_, rfl, .charge [] _ (k1.trans (List.append_nil _).symm) k2 rfl k3 k4⟩

/-- What any instruction answers: a next state, always, within the bookkeeping. -/
theorem exec_bookkeeping (i : Instr) (s : State) : ∃ t, exec i s = .next t ∧ Bookkeeping (setsHalt i) s t := by
  have irq := irqVector_far
  cases i
  case lda | ldx | ldy | adc | sbc | cmp | cpx | cpy | and | ora | eor | bit | anc =>
    simp only [exec, execLda, execLdx, execLdy, execAdc, execSbc, execCmp, execCpx, execCpy, execAnd, execOra, execEor,
      execBit, execAnc]
    refine readOp_bookkeeping _ _ s ?_
    exact fun _ _ => ⟨rfl, rfl, rfl, rfl, rfl, rfl, rfl, rfl, rfl, rfl⟩
  case sta | stx | sty => exact storeOp_bookkeeping _ _ s
  case inc | dec | asl | lsr | rol | ror =>
    simp only [exec, execInc, execDec, execAsl, execLsr, execRol, execRor]
    refine rmwOp_bookkeeping _ _ _ s ?_
    exact fun _ _ _ => ⟨rfl, rfl, rfl, rfl, rfl, rfl, rfl, rfl, rfl, rfl⟩
  case bcc | bcs | beq | bne | bmi | bpl | bvc | bvs => exact branch_bookkeeping _ _ s
  case jmp target =>
    cases target with
    | abs a => exact ⟨_, rfl, .charge [] 3 (List.append_nil _).symm rfl rfl rfl ⟨rfl, rfl, rfl, rfl, rfl, rfl, rfl⟩⟩
    | ind p =>
      refine ⟨_, rfl, .charge [.read p, .read (p + 1)] 5 ?_ ?_ rfl ?_ ?_⟩ <;>
      simp only [read16_snd] <;> first | rfl | exact ⟨rfl, rfl, rfl, rfl, rfl, rfl, rfl⟩
  case jsr target =>
    refine ⟨_, rfl, .charge [.write (stackAddr s.sp) (hi8 (s.pc + 3 - 1)),
      .write (stackAddr (s.sp - 1)) (lo8 (s.pc + 3 - 1))] 6 ?_ ?_ rfl ?_ ?_⟩ <;>
      simp only [pushWord_eq] <;> first | rfl | exact ⟨rfl, rfl, rfl, rfl, rfl, rfl, rfl⟩
  case rts =>
    refine ⟨_, rfl, .charge [.read (stackAddr (s.sp + 1)), .read (stackAddr (s.sp + 1 + 1))] 6 ?_ ?_ rfl ?_ ?_⟩ <;>
      simp only [pullWord_snd] <;> first | rfl | exact ⟨rfl, rfl, rfl, rfl, rfl, rfl, rfl⟩
  case rti =>
    refine ⟨_, rfl, .charge [.read (stackAddr (s.sp + 1)), .read (stackAddr (s.sp + 1 + 1)),
      .read (stackAddr (s.sp + 1 + 1 + 1))] 6 ?_ ?_ rfl ?_ ?_⟩ <;>
      simp only [returnFromInterrupt_eq] <;> first | rfl | exact ⟨rfl, rfl, rfl, rfl, rfl, rfl, rfl⟩
  case brk =>
    refine ⟨_, rfl, .charge [.write (stackAddr s.sp) (hi8 (s.pc + 2)), .write (stackAddr (s.sp - 1)) (lo8 (s.pc + 2)),
      .write (stackAddr (s.sp - 1 - 1)) (statusRead s), .read irqVector, .read (irqVector + 1)] 7 ?_ ?_ rfl ?_ ?_⟩ <;>
      simp only [enterInterrupt_eq _ _ _ irq.1 irq.2] <;> first | rfl | exact ⟨rfl, rfl, rfl, rfl, rfl, rfl, rfl⟩
  case pha =>
    refine ⟨_, rfl, .charge [.write (stackAddr s.sp) s.a] 3 ?_ ?_ rfl ?_ ?_⟩ <;>
      first | rfl | exact ⟨rfl, rfl, rfl, rfl, rfl, rfl, rfl⟩
  case php =>
    refine ⟨_, rfl, .charge [.write (stackAddr s.sp) (statusRead s)] 3 ?_ ?_ rfl ?_ ?_⟩ <;>
      first | rfl | exact ⟨rfl, rfl, rfl, rfl, rfl, rfl, rfl⟩
  case pla | plp =>
    refine ⟨_, rfl, .charge [.read (stackAddr (s.sp + 1))] 4 ?_ ?_ rfl ?_ ?_⟩ <;>
      first | rfl | exact ⟨rfl, rfl, rfl, rfl, rfl, rfl, rfl⟩
  case kil op =>
    exact ⟨_, rfl, ⟨[], 0, by simp [tickEvents], rfl, rfl, rfl⟩, rfl, rfl, rfl, rfl, rfl, rfl, (Bool.or_true _).symm⟩
  case failsoft op =>
    refine ⟨_, rfl, .charge [.diagUnknown op] 2 ?_ ?_ rfl ?_ ?_⟩ <;>
      first | rfl | exact ⟨rfl, rfl, rfl, rfl, rfl, rfl, rfl⟩
  all_goals
    simp only [exec, execTax, execTay, execTxa, execTya, execTsx, execTxs, execInx, execIny, execDex, execDey, execClc,
      execSec, execCli, execSei, execCld, execSed, execClv, execNop]
    refine implied_bookkeeping _ _ s ?_
    exact fun _ => ⟨rfl, rfl, rfl, rfl, rfl, rfl, rfl, rfl, rfl, rfl⟩

end Sys2Proof.Machine
end

