-- ==== Sys2Proof/Laws/PerInstr.lean ====
section
/-! SUPPORT. One fact per constructor of `Instr`, as syntax: a well-formed instruction has an opcode byte, and that byte
alone fixes how many operand bytes follow it (30_encoding.md R80, R87). -/

namespace Sys2Proof.Laws.Length

/-- The opcode byte of the instruction exists, and whatever is staged behind that byte has as many operand bytes. -/
def Statement (i : Instr) : Prop :=
  i.wellFormed = true → ∃ op, i.opcode = some op ∧
    ∀ data addr, (decodeStaged op data addr).operandBytes.length = i.operandBytes.length

theorem anc_length : ∀ op : Byte, ancOpcodes.contains op = true → ∀ data addr,
    (decodeStaged op data addr).operandBytes.length = 1 := by
  intro op h
  simp only [ancOpcodes, List.contains_iff_mem, List.mem_cons, List.not_mem_nil, or_false] at h
  rcases h with rfl | rfl <;> exact fun _ _ => rfl

theorem kil_length : ∀ op : Byte, kilOpcodes.contains op = true → ∀ data addr,
    (decodeStaged op data addr).operandBytes.length = 0 := by
  intro op h
  simp only [kilOpcodes, List.contains_iff_mem, List.mem_cons, List.not_mem_nil, or_false] at h
  rcases h with rfl | rfl | rfl | rfl | rfl | rfl | rfl | rfl | rfl | rfl | rfl | rfl <;> exact fun _ _ => rfl

theorem failsoft_length : ∀ op ∈ failsoftOpcodes, ∀ data addr,
    (decodeStaged op data addr).operandBytes.length = 0 := by
  simp only [failsoftOpcodes, List.forall_mem_append, List.forall_mem_cons, List.not_mem_nil, false_implies,
    implies_true, and_true]
  repeat' apply And.intro
  all_goals exact fun _ _ => rfl

theorem lda (src : Src) : Statement (.lda src) := by
  intro h
  rcases src with v | (d | d | d | a | a | a | d | d) <;>
    first
    | exact ⟨_, rfl, fun _ _ => rfl⟩
    | exact Bool.noConfusion h

theorem ldx (src : Src) : Statement (.ldx src) := by
  intro h
  rcases src with v | (d | d | d | a | a | a | d | d) <;>
    first
    | exact ⟨_, rfl, fun _ _ => rfl⟩
    | exact Bool.noConfusion h

theorem ldy (src : Src) : Statement (.ldy src) := by
  intro h
  rcases src with v | (d | d | d | a | a | a | d | d) <;>
    first
    | exact ⟨_, rfl, fun _ _ => rfl⟩
    | exact Bool.noConfusion h

theorem sta (dst : MemMode) : Statement (.sta dst) := by
  intro h
  cases dst <;>
    first
    | exact ⟨_, rfl, fun _ _ => rfl⟩
    | exact Bool.noConfusion h

theorem stx (dst : MemMode) : Statement (.stx dst) := by
  intro h
  cases dst <;>
    first
    | exact ⟨_, rfl, fun _ _ => rfl⟩
    | exact Bool.noConfusion h

theorem sty (dst : MemMode) : Statement (.sty dst) := by
  intro h
  cases dst <;>
    first
    | exact ⟨_, rfl, fun _ _ => rfl⟩
    | exact Bool.noConfusion h

theorem tax : Statement .tax := by
  intro _
  exact ⟨_, rfl, fun _ _ => rfl⟩

theorem tay : Statement .tay := by
  intro _
  exact ⟨_, rfl, fun _ _ => rfl⟩

theorem txa : Statement .txa := by
  intro _
  exact ⟨_, rfl, fun _ _ => rfl⟩

theorem tya : Statement .tya := by
  intro _
  exact ⟨_, rfl, fun _ _ => rfl⟩

theorem tsx : Statement .tsx := by
  intro _
  exact ⟨_, rfl, fun _ _ => rfl⟩

theorem txs : Statement .txs := by
  intro _
  exact ⟨_, rfl, fun _ _ => rfl⟩

theorem adc (src : Src) : Statement (.adc src) := by
  intro h
  rcases src with v | (d | d | d | a | a | a | d | d) <;>
    first
    | exact ⟨_, rfl, fun _ _ => rfl⟩
    | exact Bool.noConfusion h

theorem sbc (src : Src) : Statement (.sbc src) := by
  intro h
  rcases src with v | (d | d | d | a | a | a | d | d) <;>
    first
    | exact ⟨_, rfl, fun _ _ => rfl⟩
    | exact Bool.noConfusion h

theorem cmp (src : Src) : Statement (.cmp src) := by
  intro h
  rcases src with v | (d | d | d | a | a | a | d | d) <;>
    first
    | exact ⟨_, rfl, fun _ _ => rfl⟩
    | exact Bool.noConfusion h

theorem cpx (src : Src) : Statement (.cpx src) := by
  intro h
  rcases src with v | (d | d | d | a | a | a | d | d) <;>
    first
    | exact ⟨_, rfl, fun _ _ => rfl⟩
    | exact Bool.noConfusion h

theorem cpy (src : Src) : Statement (.cpy src) := by
  intro h
  rcases src with v | (d | d | d | a | a | a | d | d) <;>
    first
    | exact ⟨_, rfl, fun _ _ => rfl⟩
    | exact Bool.noConfusion h

theorem inc (dst : MemMode) : Statement (.inc dst) := by
  intro h
  cases dst <;>
    first
    | exact ⟨_, rfl, fun _ _ => rfl⟩
    | exact Bool.noConfusion h

theorem dec (dst : MemMode) : Statement (.dec dst) := by
  intro h
  cases dst <;>
    first
    | exact ⟨_, rfl, fun _ _ => rfl⟩
    | exact Bool.noConfusion h

theorem inx : Statement .inx := by
  intro _
  exact ⟨_, rfl, fun _ _ => rfl⟩

theorem iny : Statement .iny := by
  intro _
  exact ⟨_, rfl, fun _ _ => rfl⟩

theorem dex : Statement .dex := by
  intro _
  exact ⟨_, rfl, fun _ _ => rfl⟩

theorem dey : Statement .dey := by
  intro _
  exact ⟨_, rfl, fun _ _ => rfl⟩

theorem and (src : Src) : Statement (.and src) := by
  intro h
  rcases src with v | (d | d | d | a | a | a | d | d) <;>
    first
    | exact ⟨_, rfl, fun _ _ => rfl⟩
    | exact Bool.noConfusion h

theorem ora (src : Src) : Statement (.ora src) := by
  intro h
  rcases src with v | (d | d | d | a | a | a | d | d) <;>
    first
    | exact ⟨_, rfl, fun _ _ => rfl⟩
    | exact Bool.noConfusion h

theorem eor (src : Src) : Statement (.eor src) := by
  intro h
  rcases src with v | (d | d | d | a | a | a | d | d) <;>
    first
    | exact ⟨_, rfl, fun _ _ => rfl⟩
    | exact Bool.noConfusion h

theorem bit (src : MemMode) : Statement (.bit src) := by
  intro h
  cases src <;>
    first
    | exact ⟨_, rfl, fun _ _ => rfl⟩
    | exact Bool.noConfusion h

theorem asl (dst : Dst) : Statement (.asl dst) := by
  intro h
  rcases dst with _ | (d | d | d | a | a | a | d | d) <;>
    first
    | exact ⟨_, rfl, fun _ _ => rfl⟩
    | exact Bool.noConfusion h

theorem lsr (dst : Dst) : Statement (.lsr dst) := by
  intro h
  rcases dst with _ | (d | d | d | a | a | a | d | d) <;>
    first
    | exact ⟨_, rfl, fun _ _ => rfl⟩
    | exact Bool.noConfusion h

theorem rol (dst : Dst) : Statement (.rol dst) := by
  intro h
  rcases dst with _ | (d | d | d | a | a | a | d | d) <;>
    first
    | exact ⟨_, rfl, fun _ _ => rfl⟩
    | exact Bool.noConfusion h

theorem ror (dst : Dst) : Statement (.ror dst) := by
  intro h
  rcases dst with _ | (d | d | d | a | a | a | d | d) <;>
    first
    | exact ⟨_, rfl, fun _ _ => rfl⟩
    | exact Bool.noConfusion h

theorem bcc (off : Byte) : Statement (.bcc off) := by
  intro _
  exact ⟨_, rfl, fun _ _ => rfl⟩

theorem bcs (off : Byte) : Statement (.bcs off) := by
  intro _
  exact ⟨_, rfl, fun _ _ => rfl⟩

theorem beq (off : Byte) : Statement (.beq off) := by
  intro _
  exact ⟨_, rfl, fun _ _ => rfl⟩

theorem bne (off : Byte) : Statement (.bne off) := by
  intro _
  exact ⟨_, rfl, fun _ _ => rfl⟩

theorem bmi (off : Byte) : Statement (.bmi off) := by
  intro _
  exact ⟨_, rfl, fun _ _ => rfl⟩

theorem bpl (off : Byte) : Statement (.bpl off) := by
  intro _
  exact ⟨_, rfl, fun _ _ => rfl⟩

theorem bvc (off : Byte) : Statement (.bvc off) := by
  intro _
  exact ⟨_, rfl, fun _ _ => rfl⟩

theorem bvs (off : Byte) : Statement (.bvs off) := by
  intro _
  exact ⟨_, rfl, fun _ _ => rfl⟩

theorem jmp (target : JmpTarget) : Statement (.jmp target) := by
  intro _
  cases target <;> exact ⟨_, rfl, fun _ _ => rfl⟩

theorem jsr (target : Word) : Statement (.jsr target) := by
  intro _
  exact ⟨_, rfl, fun _ _ => rfl⟩

theorem rts : Statement .rts := by
  intro _
  exact ⟨_, rfl, fun _ _ => rfl⟩

theorem rti : Statement .rti := by
  intro _
  exact ⟨_, rfl, fun _ _ => rfl⟩

theorem brk : Statement .brk := by
  intro _
  exact ⟨_, rfl, fun _ _ => rfl⟩

theorem pha : Statement .pha := by
  intro _
  exact ⟨_, rfl, fun _ _ => rfl⟩

theorem php : Statement .php := by
  intro _
  exact ⟨_, rfl, fun _ _ => rfl⟩

theorem pla : Statement .pla := by
  intro _
  exact ⟨_, rfl, fun _ _ => rfl⟩

theorem plp : Statement .plp := by
  intro _
  exact ⟨_, rfl, fun _ _ => rfl⟩

theorem clc : Statement .clc := by
  intro _
  exact ⟨_, rfl, fun _ _ => rfl⟩

theorem sec : Statement .sec := by
  intro _
  exact ⟨_, rfl, fun _ _ => rfl⟩

theorem cli : Statement .cli := by
  intro _
  exact ⟨_, rfl, fun _ _ => rfl⟩

theorem sei : Statement .sei := by
  intro _
  exact ⟨_, rfl, fun _ _ => rfl⟩

theorem cld : Statement .cld := by
  intro _
  exact ⟨_, rfl, fun _ _ => rfl⟩

theorem sed : Statement .sed := by
  intro _
  exact ⟨_, rfl, fun _ _ => rfl⟩

theorem clv : Statement .clv := by
  intro _
  exact ⟨_, rfl, fun _ _ => rfl⟩

theorem nop : Statement .nop := by
  intro _
  exact ⟨_, rfl, fun _ _ => rfl⟩

theorem anc (opcode : Byte) (imm : Byte) : Statement (.anc opcode imm) := by
  intro h
  exact ⟨opcode, rfl, anc_length opcode h⟩

theorem kil (opcode : Byte) : Statement (.kil opcode) := by
  intro h
  exact ⟨opcode, rfl, kil_length opcode h⟩

theorem failsoft (opcode : Byte) : Statement (.failsoft opcode) := by
  intro h
  exact ⟨opcode, rfl, failsoft_length opcode (List.contains_iff_mem.1 h)⟩

end Sys2Proof.Laws.Length
end

