-- ==== Sys2Proof/Tests/Slice0.lean ====
section
/-! SUPPORT. The model's own tests. Expected results are those of spec/95_test_vectors.md (its vector's name stands in
the comment), of the "Encodings" lines of the instruction rules, or worked out by hand from the rule named. The last
part gives, for each obligation with hypotheses, a state or operands that meet them all. -/

namespace Sys2Proof.Tests

open Sys2Proof Sys2Proof.Machine

/-! ### WellFormed refuses an ill-formed term for each of its checks -/

/-- R130, R164, R190: no ZPY form. -/
theorem test_wf_refuses_alu_zpy :
    (Instr.wellFormed (.lda (.mem (.zpy 0x10))), encode (.lda (.mem (.zpy 0x10)))) = (false, none) := by decide

/-- R131: no ZPX form. -/
theorem test_wf_refuses_ldx_zpx :
    (Instr.wellFormed (.ldx (.mem (.zpx 0x10))), encode (.ldx (.mem (.zpx 0x10)))) = (false, none) := by decide

/-- R132: no ABSY form. -/
theorem test_wf_refuses_ldy_absy :
    (Instr.wellFormed (.ldy (.mem (.absy 0x1234))), encode (.ldy (.mem (.absy 0x1234)))) = (false, none) := by decide

/-- R168: no ZPX form. -/
theorem test_wf_refuses_cpx_zpx :
    (Instr.wellFormed (.cpx (.mem (.zpx 0x10))), encode (.cpx (.mem (.zpx 0x10)))) = (false, none) := by decide

/-- R193: no ABSX form. -/
theorem test_wf_refuses_bit_absx :
    (Instr.wellFormed (.bit (.absx 0x1234)), encode (.bit (.absx 0x1234))) = (false, none) := by decide

/-- R133: no ZPY form. -/
theorem test_wf_refuses_sta_zpy :
    (Instr.wellFormed (.sta (.zpy 0x10)), encode (.sta (.zpy 0x10))) = (false, none) := by decide

/-- R134: no ZPX form. -/
theorem test_wf_refuses_stx_zpx :
    (Instr.wellFormed (.stx (.zpx 0x10)), encode (.stx (.zpx 0x10))) = (false, none) := by decide

/-- R135: no ABSX form. -/
theorem test_wf_refuses_sty_absx :
    (Instr.wellFormed (.sty (.absx 0x1234)), encode (.sty (.absx 0x1234))) = (false, none) := by decide

/-- R170: no ABSY form. -/
theorem test_wf_refuses_inc_absy :
    (Instr.wellFormed (.inc (.absy 0x1234)), encode (.inc (.absy 0x1234))) = (false, none) := by decide

/-- R194: no INDX form. -/
theorem test_wf_refuses_asl_indx :
    (Instr.wellFormed (.asl (.mem (.indx 0x10))), encode (.asl (.mem (.indx 0x10)))) = (false, none) := by decide

/-- R85 (b): 0x0A is ASL. -/
theorem test_wf_refuses_anc_byte :
    (Instr.wellFormed (.anc 0x0A 0x00), encode (.anc 0x0A 0x00)) = (false, none) := by decide

/-- R85 (c): 0x82 is a fail-soft byte. -/
theorem test_wf_refuses_kil_byte :
    (Instr.wellFormed (.kil 0x82), encode (.kil 0x82)) = (false, none) := by decide

/-- R85 (d): 0xEA is NOP. -/
theorem test_wf_refuses_failsoft_byte :
    (Instr.wellFormed (.failsoft 0xEA), encode (.failsoft 0xEA)) = (false, none) := by decide

theorem test_wf_accepts :
    Instr.wellFormed (.lda (.mem (.indy 0xFF))) = true ∧ Instr.wellFormed (.stx (.zpy 0x80)) = true ∧
    Instr.wellFormed (.ror .acc) = true ∧ Instr.wellFormed (.kil 0x02) = true := by decide

/-! ### Decoding, from the encodings of the rules

Operand bytes are 0x34 and 0x12 in memory order, so the data byte is 0x34 and the word is 0x1234 (R82). -/

/-- What the three bytes decode to, and how many of them are left. -/
def reads (b0 : Byte) : Option (Instr × Nat) :=
  match decode [b0, 0x34, 0x12] with
  | .ok (i, rest) => some (i, rest.length)
  | .error _ => none

/-- R130 to R132. -/
theorem test_decode_loads :
    reads 0b10101001 = some (.lda (.imm 0x34), 1) ∧
    reads 0b10100101 = some (.lda (.mem (.zp 0x34)), 1) ∧
    reads 0b10110101 = some (.lda (.mem (.zpx 0x34)), 1) ∧
    reads 0b10101101 = some (.lda (.mem (.abs 0x1234)), 0) ∧
    reads 0b10111101 = some (.lda (.mem (.absx 0x1234)), 0) ∧
    reads 0b10111001 = some (.lda (.mem (.absy 0x1234)), 0) ∧
    reads 0b10100001 = some (.lda (.mem (.indx 0x34)), 1) ∧
    reads 0b10110001 = some (.lda (.mem (.indy 0x34)), 1) ∧
    reads 0xA2 = some (.ldx (.imm 0x34), 1) ∧
    reads 0xA6 = some (.ldx (.mem (.zp 0x34)), 1) ∧
    reads 0xB6 = some (.ldx (.mem (.zpy 0x34)), 1) ∧
    reads 0xAE = some (.ldx (.mem (.abs 0x1234)), 0) ∧
    reads 0xBE = some (.ldx (.mem (.absy 0x1234)), 0) ∧
    reads 0xA0 = some (.ldy (.imm 0x34), 1) ∧
    reads 0xA4 = some (.ldy (.mem (.zp 0x34)), 1) ∧
    reads 0xB4 = some (.ldy (.mem (.zpx 0x34)), 1) ∧
    reads 0xAC = some (.ldy (.mem (.abs 0x1234)), 0) ∧
    reads 0xBC = some (.ldy (.mem (.absx 0x1234)), 0) := by decide

/-- R133 to R135. -/
theorem test_decode_stores :
    reads 0b10000101 = some (.sta (.zp 0x34), 1) ∧
    reads 0b10010101 = some (.sta (.zpx 0x34), 1) ∧
    reads 0b10001101 = some (.sta (.abs 0x1234), 0) ∧
    reads 0b10011101 = some (.sta (.absx 0x1234), 0) ∧
    reads 0b10011001 = some (.sta (.absy 0x1234), 0) ∧
    reads 0b10000001 = some (.sta (.indx 0x34), 1) ∧
    reads 0b10010001 = some (.sta (.indy 0x34), 1) ∧
    reads 0x86 = some (.stx (.zp 0x34), 1) ∧
    reads 0x96 = some (.stx (.zpy 0x34), 1) ∧
    reads 0x8E = some (.stx (.abs 0x1234), 0) ∧
    reads 0x84 = some (.sty (.zp 0x34), 1) ∧
    reads 0x94 = some (.sty (.zpx 0x34), 1) ∧
    reads 0x8C = some (.sty (.abs 0x1234), 0) := by decide

/-- R164, R165, R167 to R169. -/
theorem test_decode_arithmetic :
    reads 0b01101001 = some (.adc (.imm 0x34), 1) ∧
    reads 0x7D = some (.adc (.mem (.absx 0x1234)), 0) ∧
    reads 0x71 = some (.adc (.mem (.indy 0x34)), 1) ∧
    reads 0b11101001 = some (.sbc (.imm 0x34), 1) ∧
    reads 0xF5 = some (.sbc (.mem (.zpx 0x34)), 1) ∧
    reads 0xE1 = some (.sbc (.mem (.indx 0x34)), 1) ∧
    reads 0xD9 = some (.cmp (.mem (.absy 0x1234)), 0) ∧
    reads 0xC5 = some (.cmp (.mem (.zp 0x34)), 1) ∧
    reads 0xE0 = some (.cpx (.imm 0x34), 1) ∧
    reads 0xEC = some (.cpx (.mem (.abs 0x1234)), 0) ∧
    reads 0xC0 = some (.cpy (.imm 0x34), 1) ∧
    reads 0xC4 = some (.cpy (.mem (.zp 0x34)), 1) := by decide

/-- R170, R171. -/
theorem test_decode_memory_arithmetic :
    reads 0b11100110 = some (.inc (.zp 0x34), 1) ∧
    reads 0xFE = some (.inc (.absx 0x1234), 0) ∧
    reads 0b11010110 = some (.dec (.zpx 0x34), 1) ∧
    reads 0xCE = some (.dec (.abs 0x1234), 0) := by decide

/-- R190 to R193. -/
theorem test_decode_logic :
    reads 0b00101001 = some (.and (.imm 0x34), 1) ∧
    reads 0x3D = some (.and (.mem (.absx 0x1234)), 0) ∧
    reads 0b00000101 = some (.ora (.mem (.zp 0x34)), 1) ∧
    reads 0x01 = some (.ora (.mem (.indx 0x34)), 1) ∧
    reads 0b01001101 = some (.eor (.mem (.abs 0x1234)), 0) ∧
    reads 0x51 = some (.eor (.mem (.indy 0x34)), 1) ∧
    reads 0b00100100 = some (.bit (.zp 0x34), 1) ∧
    reads 0x2C = some (.bit (.abs 0x1234), 0) := by decide

/-- R194 to R197. -/
theorem test_decode_shifts :
    reads 0b00001010 = some (.asl .acc, 2) ∧
    reads 0x1E = some (.asl (.mem (.absx 0x1234)), 0) ∧
    reads 0b01001010 = some (.lsr .acc, 2) ∧
    reads 0x46 = some (.lsr (.mem (.zp 0x34)), 1) ∧
    reads 0b00101010 = some (.rol .acc, 2) ∧
    reads 0x36 = some (.rol (.mem (.zpx 0x34)), 1) ∧
    reads 0b01101010 = some (.ror .acc, 2) ∧
    reads 0x6E = some (.ror (.mem (.abs 0x1234)), 0) := by decide

/-- R136 to R141. -/
theorem test_decode_transfers :
    reads 0b10101010 = some (.tax, 2) ∧
    reads 0xA8 = some (.tay, 2) ∧
    reads 0x8A = some (.txa, 2) ∧
    reads 0x98 = some (.tya, 2) ∧
    reads 0xBA = some (.tsx, 2) ∧
    reads 0x9A = some (.txs, 2) := by decide

/-- R172 to R175. -/
theorem test_decode_registers :
    reads 0b11101000 = some (.inx, 2) ∧
    reads 0xC8 = some (.iny, 2) ∧
    reads 0xCA = some (.dex, 2) ∧
    reads 0x88 = some (.dey, 2) := by decide

/-- R240 to R243. -/
theorem test_decode_stack :
    reads 0b01001000 = some (.pha, 2) ∧
    reads 0x08 = some (.php, 2) ∧
    reads 0x68 = some (.pla, 2) ∧
    reads 0x28 = some (.plp, 2) := by decide

/-- R244 to R251. -/
theorem test_decode_flags :
    reads 0b00011000 = some (.clc, 2) ∧
    reads 0x38 = some (.sec, 2) ∧
    reads 0x58 = some (.cli, 2) ∧
    reads 0x78 = some (.sei, 2) ∧
    reads 0xD8 = some (.cld, 2) ∧
    reads 0xF8 = some (.sed, 2) ∧
    reads 0xB8 = some (.clv, 2) ∧
    reads 0xEA = some (.nop, 2) := by decide

/-- R211 to R224. -/
theorem test_decode_control :
    reads 0b10010000 = some (.bcc 0x34, 1) ∧
    reads 0xB0 = some (.bcs 0x34, 1) ∧
    reads 0xF0 = some (.beq 0x34, 1) ∧
    reads 0xD0 = some (.bne 0x34, 1) ∧
    reads 0x30 = some (.bmi 0x34, 1) ∧
    reads 0x10 = some (.bpl 0x34, 1) ∧
    reads 0x50 = some (.bvc 0x34, 1) ∧
    reads 0x70 = some (.bvs 0x34, 1) ∧
    reads 0b01001100 = some (.jmp (.abs 0x1234), 0) ∧
    reads 0x6C = some (.jmp (.ind 0x1234), 0) ∧
    reads 0x20 = some (.jsr 0x1234, 0) ∧
    reads 0x60 = some (.rts, 2) ∧
    reads 0x40 = some (.rti, 2) ∧
    reads 0x00 = some (.brk, 2) := by decide

/-- R85 (b), (c), (d): ANC takes its operand byte, KIL and the fail-soft byte take none. -/
theorem test_decode_undocumented :
    reads 0b00001011 = some (.anc 0x0B 0x34, 1) ∧ reads 0x2B = some (.anc 0x2B 0x34, 1) ∧
    reads 0b00000010 = some (.kil 0x02, 2) ∧ reads 0xF2 = some (.kil 0xF2, 2) ∧
    reads 0x0C = some (.failsoft 0x0C, 2) ∧ reads 0xFF = some (.failsoft 0xFF, 2) := by decide

/-- A list that ends too early is refused by name (log entry 14). -/
theorem test_decode_refuses :
    (match decode [] with | .error e => some e | .ok _ => none) = some .noBytes ∧
    (match decode [0xAD, 0x34] with | .error e => some e | .ok _ => none) =
        some (.truncated 0xAD) := by decide

/-- The table's words, in the table's bit numbering. -/
theorem test_decodeTableWord :
    decodeTableWord 24 0x1234AD = some (.lda (.mem (.abs 0x1234))) ∧ decodeTableWord 8 0x00 = some .brk ∧
    decodeTableWord 8 0xAD = some (.lda (.mem (.abs 0x0000))) := by decide

/-! ### One step each -/

/-- The start state of the vectors: SP 0xFD, everything else zero, `code` at `pc`, and `data` stored byte by byte. -/
def start (pc : Word) (code : List Byte) (data : List (Word × Byte) := []) : State :=
  { State.powerOn Config.powerOn (data.foldl (fun m e => m.write e.1 e.2) (Memory.writeFrom [] pc code)) with
    sp := 0xFD, pc := pc }

/-- One step, and what is asked of the state it ends in. -/
def after {α : Type} (s : State) (f : State → α) : Option α := (answered (step s)).map f

/-- The events of a step but its ticks. -/
def accesses (t : State) : List Event :=
  t.trace.filter fun e => match e with
    | .tick _ => false
    | _ => true

/-- A1: the sum wraps inside page 0x00. -/
theorem test_lda_zpx_wraps :
    after { start 0x0200 [0xB5, 0xF0] [(0x0010, 0x80)] with x := 0x20 }
      (fun t => (t.a, statusRead t, t.pc, t.cycles)) = some (0x80, 0xB0, 0x0202, 4) := by decide

/-- A5, where the high byte of the pointer comes from 0x0100, and A6. -/
theorem test_lda_indirect :
    after { start 0x0200 [0xA1, 0xFE] [(0x00FF, 0x34), (0x0100, 0x12), (0x0000, 0x99), (0x1234, 0x55)] with
          x := 0x01 }
      (fun t => (t.a, t.cycles)) = some (0x55, 6) ∧
    after { start 0x0200 [0xB1, 0x40] [(0x0040, 0xF8), (0x0041, 0x12), (0x1308, 0xAA)] with y := 0x10 }
      (fun t => (t.a, statusRead t, t.cycles)) = some (0xAA, 0xB0, 6) := by decide

/-- V2, the decimal quirk, and B10, invalid BCD. -/
theorem test_adc_decimal :
    after { start 0x0200 [0x69, 0x00] with a := 0x79, c := true, d := true }
      (fun t => (t.a, statusRead t, t.pc, t.cycles)) = some (0x80, 0xF8, 0x0202, 2) ∧
    after { start 0x0200 [0x69, 0xFF] with a := 0xFF, d := true }
      (fun t => (t.a, statusRead t)) = some (0x54, 0xB9) := by decide

/-- B13, with borrow in, and B14, invalid BCD. -/
theorem test_sbc_decimal :
    after { start 0x0200 [0xE9, 0x13] with a := 0x40, d := true }
      (fun t => (t.a, statusRead t)) = some (0x26, 0x39) ∧
    after { start 0x0200 [0xE9, 0x01] with a := 0x1A, c := true, d := true }
      (fun t => (t.a, statusRead t)) = some (0x19, 0x39) := by decide

/-- A9. -/
theorem test_ldx_zpy_wraps :
    after { start 0x0200 [0xB6, 0xFF] with y := 0x02, x := 0x07 }
      (fun t => (t.x, statusRead t, t.cycles)) = some (0x00, 0x32, 4) := by decide

/-- A10. -/
theorem test_ldx_absy_crosses :
    after { start 0x0200 [0xBE, 0xFF, 0x00] [(0x0100, 0x01)] with y := 0x01 }
      (fun t => (t.x, t.cycles)) = some (0x01, 5) := by decide

/-- A11: the sum wraps mod 2^16. -/
theorem test_ldy_absx_wraps :
    after { start 0x0200 [0xBC, 0xFF, 0xFF] [(0x0001, 0xC0)] with x := 0x02 }
      (fun t => (t.y, statusRead t, t.cycles)) = some (0xC0, 0xB0, 5) := by decide

/-- A4. -/
theorem test_sta_absx_no_penalty :
    after { start 0x0200 [0x9D, 0xF0, 0x12] with x := 0x20, a := 0x42 }
      (fun t => (t.mem.read 0x1310, t.cycles, accesses t)) =
        some (0x42, 5, [.read 0x0200, .read 0x0201, .read 0x0202, .write 0x1310 0x42]) := by decide

/-- A8. -/
theorem test_sta_indy :
    after { start 0x0200 [0x91, 0x40] [(0x0040, 0xF8), (0x0041, 0x12)] with y := 0x10, a := 0x66 }
      (fun t => (t.mem.read 0x1308, t.cycles)) = some (0x66, 6) := by decide

/-- A13. -/
theorem test_stx_zpy :
    after { start 0x0200 [0x96, 0x80] with y := 0x90, x := 0x11 }
      (fun t => (t.mem.read 0x0010, t.cycles)) = some (0x11, 4) := by decide

/-- A14. -/
theorem test_sty_zpx :
    after { start 0x0200 [0x94, 0x80] with x := 0x7F, y := 0x22 }
      (fun t => (t.mem.read 0x00FF, t.cycles)) = some (0x22, 4) := by decide

/-- A15. -/
theorem test_tsx :
    after { start 0x0200 [0xBA] with sp := 0x00, x := 0x07 }
      (fun t => (t.x, statusRead t, t.cycles)) = some (0x00, 0x32, 2) := by decide

/-- A16: no flag changes. -/
theorem test_txs :
    after (start 0x0200 [0x9A])
      (fun t => (t.sp, statusRead t)) = some (0x00, 0x30) := by decide

/-- A17. -/
theorem test_tay :
    after { start 0x0200 [0xA8] with a := 0x80 }
      (fun t => (t.y, statusRead t)) = some (0x80, 0xB0) := by decide

/-- R136. -/
theorem test_tax :
    after { start 0x0200 [0xAA] with a := 0x01, x := 0x80 }
      (fun t => (t.x, t.a, statusRead t)) = some (0x01, 0x01, 0x30) := by decide

/-- R138. -/
theorem test_txa :
    after { start 0x0200 [0x8A] with a := 0x01, x := 0x80 }
      (fun t => (t.x, t.a, statusRead t)) = some (0x80, 0x80, 0xB0) := by decide

/-- R139. -/
theorem test_tya :
    after { start 0x0200 [0x98] with a := 0x01 }
      (fun t => (t.y, t.a, statusRead t)) = some (0x00, 0x00, 0x32) := by decide

/-- V1a. -/
theorem test_adc_overflow :
    after { start 0x0200 [0x69, 0x50] with a := 0x50 }
      (fun t => (t.a, statusRead t)) = some (0xA0, 0xF0) := by decide

/-- B2. -/
theorem test_sbc_overflow :
    after { start 0x0200 [0xE9, 0x01] with a := 0x80, c := true }
      (fun t => (t.a, statusRead t)) = some (0x7F, 0x71) := by decide

/-- V3. -/
theorem test_cmp_less :
    after { start 0x0200 [0xC9, 0x20] with a := 0x10 }
      (fun t => (t.a, statusRead t, t.pc, t.cycles)) = some (0x10, 0xB0, 0x0202, 2) := by decide

/-- B16. -/
theorem test_cmp_is_unsigned :
    after { start 0x0200 [0xC9, 0x01] with a := 0x80 }
      (fun t => (t.a, statusRead t)) = some (0x80, 0x31) := by decide

/-- B17. -/
theorem test_cpx :
    after { start 0x0200 [0xE0, 0x10] with x := 0x0F }
      (fun t => statusRead t) = some 0xB0 := by decide

/-- B18. -/
theorem test_cpy :
    after (start 0x0200 [0xC4, 0x10])
      (fun t => (statusRead t, t.cycles)) = some (0x33, 3) := by decide

/-- B19. -/
theorem test_inc_wraps :
    after (start 0x0200 [0xE6, 0x10] [(0x0010, 0xFF)])
      (fun t => (t.mem.read 0x0010, statusRead t, accesses t)) =
        some (0x00, 0x32, [.read 0x0200, .read 0x0201, .read 0x0202, .read 0x0010, .write 0x0010 0x00]) := by decide

/-- B20. -/
theorem test_inc_ignores_d :
    after { start 0x0200 [0xE6, 0x10] [(0x0010, 0x09)] with d := true }
      (fun t => (t.mem.read 0x0010, statusRead t)) = some (0x0A, 0x38) := by decide

/-- B21. -/
theorem test_dec_absx :
    after { start 0x0200 [0xDE, 0x00, 0x30] with x := 0x05 }
      (fun t => (t.mem.read 0x3005, statusRead t, t.cycles)) = some (0xFF, 0xB0, 7) := by decide

/-- B22: no extra cycle. -/
theorem test_dec_absx_crosses :
    after { start 0x0200 [0xDE, 0xFF, 0x30] [(0x3100, 0x01)] with x := 0x01 }
      (fun t => (t.mem.read 0x3100, statusRead t, t.cycles)) = some (0x00, 0x32, 7) := by decide

/-- B23. -/
theorem test_inx_wraps :
    after { start 0x0200 [0xE8] with x := 0xFF }
      (fun t => (t.x, statusRead t)) = some (0x00, 0x32) := by decide

/-- R173. -/
theorem test_iny :
    after { start 0x0200 [0xC8] with y := 0x7F }
      (fun t => (t.y, statusRead t)) = some (0x80, 0xB0) := by decide

/-- R174. -/
theorem test_dex :
    after { start 0x0200 [0xCA] with x := 0x01 }
      (fun t => (t.x, statusRead t)) = some (0x00, 0x32) := by decide

/-- B24. -/
theorem test_dey_wraps :
    after (start 0x0200 [0x88])
      (fun t => (t.y, statusRead t)) = some (0xFF, 0xB0) := by decide

/-- C1. -/
theorem test_and :
    after { start 0x0200 [0x29, 0x0F] with a := 0xF0 }
      (fun t => (t.a, statusRead t)) = some (0x00, 0x32) := by decide

/-- C2. -/
theorem test_ora :
    after { start 0x0200 [0x09, 0x80] with a := 0x01 }
      (fun t => (t.a, statusRead t)) = some (0x81, 0xB0) := by decide

/-- C3. -/
theorem test_eor :
    after { start 0x0200 [0x49, 0xFF] with a := 0xFF }
      (fun t => (t.a, statusRead t)) = some (0x00, 0x32) := by decide

/-- C4. -/
theorem test_bit :
    after { start 0x0200 [0x24, 0x10] [(0x0010, 0xC0)] with a := 0x01 }
      (fun t => (t.a, statusRead t, t.cycles)) = some (0x01, 0xF2, 3) := by decide

/-- C5. -/
theorem test_bit_abs :
    after { start 0x0200 [0x2C, 0x00, 0x30] [(0x3000, 0x41)] with a := 0x41 }
      (fun t => (statusRead t, t.cycles)) = some (0x70, 4) := by decide

/-- C6. -/
theorem test_asl_acc :
    after { start 0x0200 [0x0A] with a := 0x80 }
      (fun t => (t.a, statusRead t)) = some (0x00, 0x33) := by decide

/-- C11. -/
theorem test_asl_absx :
    after { start 0x0200 [0x1E, 0x00, 0x30] [(0x3001, 0x41)] with x := 0x01 }
      (fun t => (t.mem.read 0x3001, statusRead t, t.cycles)) = some (0x82, 0xB0, 7) := by decide

/-- C7. -/
theorem test_lsr_acc :
    after { start 0x0200 [0x4A] with a := 0x01 }
      (fun t => (t.a, statusRead t)) = some (0x00, 0x33) := by decide

/-- C8. -/
theorem test_rol_acc :
    after { start 0x0200 [0x2A] with a := 0x80, c := true }
      (fun t => (t.a, statusRead t)) = some (0x01, 0x31) := by decide

/-- C9. -/
theorem test_ror_acc :
    after { start 0x0200 [0x6A] with a := 0x01, c := true }
      (fun t => (t.a, statusRead t)) = some (0x80, 0xB1) := by decide

/-- C10. -/
theorem test_ror_zp :
    after (start 0x0200 [0x66, 0x10] [(0x0010, 0x02)])
      (fun t => (t.mem.read 0x0010, statusRead t, t.cycles)) = some (0x01, 0x30, 5) := by decide

/-- D1. -/
theorem test_bne_back :
    after (start 0x0300 [0xD0, 0xFC])
      (fun t => (t.pc, t.cycles)) = some (0x02FE, 4) := by decide

/-- D2. -/
theorem test_bpl_not_taken :
    after { start 0x0200 [0x10, 0x05] with n := true }
      (fun t => (t.pc, t.cycles)) = some (0x0202, 2) := by decide

/-- D3. -/
theorem test_bmi_far :
    after { start 0x0200 [0x30, 0x7F] with n := true }
      (fun t => (t.pc, t.cycles)) = some (0x0281, 3) := by decide

/-- D4. -/
theorem test_bvs_back :
    after { start 0x0300 [0x70, 0x80] with v := true }
      (fun t => (t.pc, t.cycles)) = some (0x0282, 4) := by decide

/-- D5. -/
theorem test_bcc_wraps :
    after (start 0xFFFC [0x90, 0x02])
      (fun t => (t.pc, t.cycles)) = some (0x0000, 4) := by decide

/-- D6. -/
theorem test_bcs_itself :
    after { start 0x0200 [0xB0, 0xFE] with c := true }
      (fun t => (t.pc, t.cycles)) = some (0x0200, 3) := by decide

/-- D7. -/
theorem test_bvc_not_taken :
    after { start 0x0200 [0x50, 0x10] with v := true }
      (fun t => (t.pc, t.cycles)) = some (0x0202, 2) := by decide

/-- V4c. -/
theorem test_beq_crosses :
    after { start 0x02F0 [0xF0, 0x20] with z := true }
      (fun t => (t.pc, t.cycles)) = some (0x0312, 4) := by decide

/-- D8. -/
theorem test_jmp_abs :
    after (start 0x0200 [0x4C, 0x34, 0x12])
      (fun t => (t.pc, t.cycles)) = some (0x1234, 3) := by decide

/-- A18: no page bug. -/
theorem test_jmp_ind :
    after (start 0x0400 [0x6C, 0xFF, 0x02] [(0x02FF, 0x00), (0x0300, 0x40), (0x0200, 0x99)])
      (fun t => (t.pc, t.cycles)) = some (0x4000, 5) := by decide

/-- D9. -/
theorem test_jsr :
    after { start 0x0200 [0x20, 0x00, 0x30] with sp := 0xFF }
      (fun t => (t.pc, t.sp, t.mem.read 0x01FF, t.mem.read 0x01FE, t.cycles)) =
        some (0x3000, 0xFD, 0x02, 0x02, 6) := by decide

/-- D10. -/
theorem test_rts :
    after (start 0x0200 [0x60] [(0x01FE, 0x07), (0x01FF, 0x02)])
      (fun t => (t.pc, t.sp, t.cycles)) = some (0x0208, 0xFF, 6) := by decide

/-- D12. -/
theorem test_rti :
    after { start 0x0200 [0x40] [(0x01FD, 0xFF), (0x01FE, 0x34), (0x01FF, 0x12)] with sp := 0xFC }
      (fun t => (t.pc, t.sp, statusRead t, t.cycles)) = some (0x1234, 0xFF, 0xFF, 6) := by decide

/-- D13. -/
theorem test_brk :
    after { start 0x0200 [0x00, 0x99] [(0xFFFE, 0x00), (0xFFFF, 0x50)] with sp := 0xFF, c := true }
      (fun t => (t.pc, t.sp, statusRead t, accesses t)) =
        some (0x5000, 0xFC, 0x35, [.read 0x0200, .read 0x0201, .read 0x0202, .write 0x01FF 0x02,
        .write 0x01FE 0x02, .write 0x01FD 0x31, .read 0xFFFE, .read 0xFFFF]) := by decide

/-- D14. -/
theorem test_brk_wraps_sp :
    after { start 0x0200 [0x00] [(0xFFFE, 0x00), (0xFFFF, 0x50)] with sp := 0x01 }
      (fun t => (t.sp, t.mem.read 0x0101, t.mem.read 0x0100, t.mem.read 0x01FF)) =
        some (0xFE, 0x02, 0x02, 0x30) := by decide

/-- E1. -/
theorem test_pha_wraps :
    after { start 0x0200 [0x48] with a := 0x77, sp := 0x00 }
      (fun t => (t.sp, t.mem.read 0x0100, t.cycles)) = some (0xFF, 0x77, 3) := by decide

/-- E2. -/
theorem test_pla_wraps :
    after { start 0x0200 [0x68] with a := 0x77, sp := 0xFF }
      (fun t => (t.a, t.sp, statusRead t, t.cycles)) = some (0x00, 0x00, 0x32, 4) := by decide

/-- E3. -/
theorem test_php :
    after { start 0x0200 [0x08] with sp := 0xFF, c := true, z := true }
      (fun t => (t.mem.read 0x01FF, t.sp)) = some (0x33, 0xFE) := by decide

/-- E4. -/
theorem test_plp :
    after { start 0x0200 [0x28] [(0x01FF, 0xFF)] with sp := 0xFE }
      (fun t => (statusRead t, t.sp)) = some (0xFF, 0xFF) := by decide

/-- Section 2.5. -/
theorem test_clc :
    after { start 0x0200 [0x18] with c := true }
      (fun t => (statusRead t, t.pc, t.cycles)) = some (0x30, 0x0201, 2) := by decide

/-- Section 2.5. -/
theorem test_sec :
    after (start 0x0200 [0x38])
      (fun t => (statusRead t, t.pc, t.cycles)) = some (0x31, 0x0201, 2) := by decide

/-- Section 2.5. -/
theorem test_cli :
    after { start 0x0200 [0x58] with i := true }
      (fun t => (statusRead t, t.pc, t.cycles)) = some (0x30, 0x0201, 2) := by decide

/-- Section 2.5. -/
theorem test_sei :
    after (start 0x0200 [0x78])
      (fun t => (statusRead t, t.pc, t.cycles)) = some (0x34, 0x0201, 2) := by decide

/-- Section 2.5. -/
theorem test_cld :
    after { start 0x0200 [0xD8] with d := true }
      (fun t => (statusRead t, t.pc, t.cycles)) = some (0x30, 0x0201, 2) := by decide

/-- Section 2.5. -/
theorem test_sed :
    after (start 0x0200 [0xF8])
      (fun t => (statusRead t, t.pc, t.cycles)) = some (0x38, 0x0201, 2) := by decide

/-- Section 2.5. -/
theorem test_clv :
    after { start 0x0200 [0xB8] with v := true }
      (fun t => (statusRead t, t.pc, t.cycles)) = some (0x30, 0x0201, 2) := by decide

/-- A19: the staging reads wrap. -/
theorem test_nop_at_the_top :
    after (start 0xFFFF [0xEA])
      (fun t => (t.pc, accesses t)) = some (0x0000, [.read 0xFFFF, .read 0x0000, .read 0x0001]) := by decide

/-- F1. -/
theorem test_anc :
    after { start 0x0200 [0x0B, 0x80] with a := 0xFF }
      (fun t => (t.a, statusRead t, t.pc, t.cycles)) = some (0x80, 0xB1, 0x0202, 2) := by decide

/-- F2. -/
theorem test_anc_clears_carry :
    after { start 0x0200 [0x2B, 0x00] with a := 0xFF, c := true }
      (fun t => (t.a, statusRead t)) = some (0x00, 0x32) := by decide

/-- V7a. -/
theorem test_kil :
    after { start 0x0300 [0x02] with cycles := 19 }
      (fun t => (t.halted, t.pc, t.cycles, t.trace)) =
        some (true, 0x0300, 19, [.read 0x0300, .read 0x0301, .read 0x0302]) := by decide

/-- F4: one byte long. -/
theorem test_failsoft :
    after (start 0x0200 [0x0C, 0x34, 0x12])
      (fun t => (t.pc, t.cycles, t.trace.contains (.diagUnknown 0x0C))) = some (0x0201, 2, true) := by decide

/-! ### Reset, service and halt -/

/-- V5 and the tick R289 shows. -/
theorem test_reset :
    after { start 0x0200 [] [(0xFFFC, 0x00), (0xFFFD, 0x80)] with
          resetPending := true, sp := 0x40, cycles := 1234 }
      (fun t => (t.sp, t.pc, t.i, t.cycles, t.trace.take 3)) =
        some (0x3D, 0x8000, true, 7, [.read 0xFFFC, .read 0xFFFD, .tick 1]) := by decide

/-- G1. -/
theorem test_reset_from_halted :
    after { start 0x0200 [] [(0xFFFC, 0x00), (0xFFFD, 0x80)] with
      halted := true, resetPending := true, nmiPending := true, irqPending := true, sp := 0x00, a := 0x11, d := true }
      (fun t => (t.sp, statusRead t, t.a, t.halted, t.nmiPending, t.irqPending)) =
        some (0xFD, 0x3C, 0x11, false, false, false) := by decide

/-- V6a. -/
theorem test_nmi_over_irq :
    after { start 0x1234 [] [(0xFFFA, 0x00), (0xFFFB, 0x90)] with
          nmiPending := true, irqPending := true, sp := 0xFF }
      (fun t => (t.sp, t.pc, t.i, t.irqPending, accesses t)) =
        some (0xFC, 0x9000, true, false, [.write 0x01FF 0x12, .write 0x01FE 0x34, .write 0x01FD 0x20,
        .read 0xFFFA, .read 0xFFFB]) := by decide

/-- G2. -/
theorem test_nmi_ignores_i :
    after { start 0x0400 [] [(0xFFFA, 0x00), (0xFFFB, 0x90)] with
          nmiPending := true, i := true, d := true, c := true, sp := 0xFF }
      (fun t => (t.pc, t.mem.read 0x01FD)) = some (0x9000, 0x2D) := by decide

/-- V6b. -/
theorem test_irq_masked :
    after { start 0x0200 [0xEA] with irqPending := true, i := true }
      (fun t => (t.pc, t.irqPending, t.cycles)) = some (0x0201, true, 2) := by decide

/-- G3. -/
theorem test_irq_wraps_sp :
    after { start 0x1234 [] [(0xFFFE, 0x00), (0xFFFF, 0xA0)] with irqPending := true, sp := 0x01 }
      (fun t => (t.sp, t.pc, t.mem.read 0x0100, t.mem.read 0x01FF)) =
        some (0xFE, 0xA000, 0x34, 0x20) := by decide

/-- V7b. -/
theorem test_halted_drops :
    after { start 0x0300 [] with halted := true, nmiPending := true, irqPending := true, cycles := 19 }
      (fun t => (t.nmiPending, t.irqPending, t.halted, t.pc, t.cycles, t.trace.length)) =
        some (false, false, true, 0x0300, 19, 0) := by decide

/-- A20. -/
theorem test_jump_req :
    (answered (hostCall false (.jumpReq 0xFFFF) (start 0x0200 [] [(0xFFFF, 0x34), (0x0000, 0x12)]))).map
      (fun t => (t.pc, t.cycles)) = some (0x1234, 0) := by decide

/-- R60: `load` with size 0 takes the whole source. -/
theorem test_load :
    let t := State.loadProgram [0xA9, 0x05] 0xFFFF 0 (start 0x0200 [])
    (t.mem.read 0xFFFF, t.mem.read 0x0000) = (0xA9, 0x00) := by decide

/-- R53: `write16` puts the low byte first. -/
theorem test_write16 :
    Memory.write16 [] 0x0010 0x1234 = [(0x0010, 0x34), (0x0011, 0x12)] := by decide

/-- Writing what an unlisted address reads as removes the entry (log entry 2). -/
theorem test_write_removes :
    Memory.write [(0x0010, 0x34), (0x0011, 0x12)] 0x0010 0x00 = [(0x0011, 0x12)] := by decide

/-- The host's way to place an instruction: the next step from reset runs it (log entry 6). -/
theorem test_withFetchWord :
    after (State.reset.withFetchWord 24 0x1234AD) (fun t => (t.pc, t.a, accesses t)) =
      some (0x0003, 0x00, [.read 0x0000, .read 0x0001, .read 0x0002, .read 0x1234]) := by decide

/-! ### Witnesses: the hypotheses of the obligations can be met, clause by clause -/

theorem test_hyp_wellFormed :
    Instr.wellFormed (.sbc (.mem (.absy 0xFFFF))) = true ∧ Instr.wellFormed (.failsoft 0xFF) = true ∧
    Instr.wellFormed (.anc 0x2B 0xFF) = true ∧ Instr.wellFormed (.bvs 0x80) = true := by decide

theorem test_hyp_canonical :
    Memory.wf [(0x0000, 0x01), (0xFFFF, 0xFF)] = true ∧ Memory.wf [] = true ∧
    Memory.wf [(0x0001, 0x01), (0x0000, 0x01)] = false ∧ Memory.wf [(0x0000, 0x00)] = false ∧
    Memory.wf [(0x10000, 0x01)] = false := by decide

/-- 99 + 1 and 0 - 1: the sum reaches 100, and the difference borrows. -/
theorem test_hyp_validBcd :
    (validBcd 0x99 ∧ validBcd 0x01 ∧ bcdValue (addDec 0x99 0x01 false).r = 0 ∧ (addDec 0x99 0x01 false).c = true) ∧
    (validBcd 0x00 ∧ bcdValue (subDec 0x00 0x01 true).r = 99 ∧ (subDec 0x00 0x01 true).c = false) := by decide

/-- The last address that `load` reaches from 0xFFFE, and the first it does not. -/
theorem test_hyp_load_boundary :
    let t := State.loadProgram [0x01, 0x02, 0x03] 0xFFFE 3 (start 0x0200 [])
    (t.mem.read 0xFFFE, t.mem.read 0xFFFF, t.mem.read 0x0000, t.mem.read 0xFFFD) = (0x01, 0x02, 0x00, 0x00) :=
      by decide

/-- A signed sum above 127, one below -128, and one at each bound that does not overflow. -/
theorem test_hyp_overflow :
    signed 0x7F + signed 0x01 > 127 ∧ (addBin 0x7F 0x01 false).v = true ∧
    signed 0x80 + signed 0xFF < -128 ∧ (addBin 0x80 0xFF false).v = true ∧
    signed 0x7E + signed 0x01 = 127 ∧ (addBin 0x7E 0x01 false).v = false ∧
    signed 0x81 + signed 0xFF = -128 ∧ (addBin 0x81 0xFF false).v = false := by decide

/-- The bounds of a signed difference. -/
theorem test_hyp_difference :
    (subBin 0x7F 0xFF true).v = true ∧ (subBin 0x80 0x01 true).v = true ∧ (subBin 0x7F 0x00 true).v = false ∧
    (subBin 0x80 0x00 true).v = false ∧ (subBin 0x00 0x01 true).c = false ∧ (subBin 0x01 0x01 true).c = true :=
      by decide

theorem test_hyp_undocumented_bytes :
    (0x0B : Byte) ∈ ancOpcodes ∧ (0x2B : Byte) ∈ ancOpcodes ∧ (0x02 : Byte) ∈ kilOpcodes ∧ (0xF2 : Byte) ∈ kilOpcodes ∧
    (0x03 : Byte) ∈ failsoftOpcodes ∧ (0xFF : Byte) ∈ failsoftOpcodes ∧ (0xEA : Byte) ∉ failsoftOpcodes := by decide

/-- Every row of the cost statement: a page-sensitive opcode at a crossing and just below it, a branch taken into
another page, an opcode that transfers control and one that does not. -/
theorem test_hyp_costs :
    (0xBD : Byte) ∈ penaltyOpcodes ∧ (0x9D : Byte) ∉ penaltyOpcodes ∧
    modeCross (decodeStaged 0xBD 0x01 0x1201) { start 0x0200 [] with x := 0xFF } = true ∧
    modeCross (decodeStaged 0xBD 0x00 0x1200) { start 0x0200 [] with x := 0xFF } = false ∧
    branchCharge (decodeStaged 0xF0 0x20 0x0020) { start 0x02F0 [] with z := true } = 2 ∧
    branchCharge (decodeStaged 0xF0 0x20 0x0020) (start 0x02F0 []) = 0 ∧
    (0x4C : Byte) ∈ transferOpcodes ∧ (0xBD : Byte) ∉ transferOpcodes := by decide

/-- A state whose next step is an instruction step, with no IRQ and with a masked one. -/
theorem test_hyp_instruction_step :
    let s := start 0x0200 [0xEA]
    let masked := { start 0x0200 [0xEA] with irqPending := true, i := true }
    (s.resetPending = false ∧ s.halted = false ∧ s.nmiPending = false ∧ s.irqPending = false ∧ s.runs) ∧
    (masked.resetPending = false ∧ masked.halted = false ∧ masked.nmiPending = false ∧ masked.i = true ∧
      masked.irqPending = true ∧ masked.runs) := by decide

/-- A state for each of the five branches of a step. -/
theorem test_hyp_branches :
    State.stepBranch { start 0x0200 [] with
          resetPending := true, halted := true, nmiPending := true } = .reset ∧
    State.stepBranch { start 0x0200 [] with halted := true, nmiPending := true } = .halted ∧
    State.stepBranch { start 0x0200 [] with nmiPending := true, irqPending := true, i := true } = .nmi ∧
    State.stepBranch { start 0x0200 [] with irqPending := true } = .irq ∧
    State.stepBranch { start 0x0200 [] with irqPending := true, i := true } = .instruction := by decide

/-- A KIL byte enters `Halted`, and a reset leaves it. -/
theorem test_hyp_halting :
    after (start 0x0200 [0xF2]) State.halted = some true ∧
    after { start 0x0200 [] with halted := true, resetPending := true } State.halted = some false := by decide

/-- A halted state at the end of a run, with requests to drop. -/
theorem test_hyp_absorbing :
    let s := { start 0x0200 [] with halted := true, nmiPending := true, irqPending := true }
    s.ended ∧ s.resetPending = false ∧ after s (fun t => (t.halted, t.nmiPending)) =
        some (true, false) := by decide

/-- A step that writes memory, and an address that it does not write. -/
theorem test_hyp_trace :
    after (start 0x0200 [0x48]) (fun t => decide ((Event.write 0x01FD 0x00) ∈ t.trace)) = some true ∧
    after (start 0x0200 [0x48]) (fun t => t.trace.any fun e => match e with
      | .write a _ => a == 0x0300
      | _ => false) = some false := by decide

/-- Two states that differ only in what counts or reports. -/
theorem test_hyp_sameButTiming :
    sameButTiming (start 0x0200 [0xEA]) { start 0x0200 [0xEA] with
          cycles := 99, op := 0x12, trace := [.tick 1] } := by
  decide

/-- An instruction step for each clause, from the I that it changes: CLI, SEI, and PLP and RTI that pull I as 0 and as
1, with an IRQ requested after it; and one with the IRQ pending through it. -/
theorem test_hyp_mask :
    let masked (i : Bool) (code : List Byte) (pulled : Byte) : State :=
      { start 0x0200 code [(0x01FE, pulled)] with i := i }
    let next (s : State) : Option StepBranch := after s fun t => t.reqIrq.stepBranch
    (masked true [0x58] 0x00).runs ∧ next (masked true [0x58] 0x00) = some .irq ∧
    (masked false [0x78] 0x00).runs ∧ next (masked false [0x78] 0x00) = some .instruction ∧
    (masked true [0x28] 0xFB).runs ∧ next (masked true [0x28] 0xFB) = some .irq ∧
    (masked false [0x28] 0x04).runs ∧ next (masked false [0x28] 0x04) = some .instruction ∧
    (masked true [0x40] 0xFB).runs ∧ next (masked true [0x40] 0xFB) = some .irq ∧
    (masked false [0x40] 0x04).runs ∧ next (masked false [0x40] 0x04) = some .instruction ∧
    (let s := { masked true [0x58] 0x00 with irqPending := true }
     s.runs ∧ after s (fun t => (t.irqPending, t.stepBranch)) = some (true, .irq)) := by decide

/-- A canonical memory and a step that writes it. -/
theorem test_hyp_memOk :
    (start 0x0200 [0x48] [(0x0000, 0x12)]).memOk ∧
    after (start 0x0200 [0x48] [(0x0000, 0x12)]) (fun t => t.mem.wf) = some true := by decide

end Sys2Proof.Tests
end

section
/-! PROOF. The statements of 10_state.md: the packed status view, the flag helper, and who sets and clears the halt
latch. -/

namespace Sys2Proof.Machine

/-! ### The packed status and the flag helper (R26, R27, R34, R43) -/

/-- Bits 4 and 5 have no storage, so a written status reads back with both set (R34). -/
theorem statusRead_statusWrite (b : Byte) (s : State) : statusRead (statusWrite b s) = b ||| 0x30 := by
  obtain ⟨hc, hz, hi, hd, h4, h5, hv, hn⟩ := statusRead_bits (statusWrite b s)
  apply BitVec.eq_of_getLsbD_eq
  intro k hk
  interval_cases k <;> simp only [BitVec.getLsbD_or, hc, hz, hi, hd, h4, h5, hv, hn] <;> simp

/-- Each flag comes back from the bit it was packed into. -/
theorem statusWrite_statusRead (s : State) : statusWrite (statusRead s) s = s := by
  obtain ⟨hc, hz, hi, hd, -, -, hv, hn⟩ := statusRead_bits s
  simp only [statusWrite, hc, hz, hi, hd, hv, hn]

/-- Settles O5: the bits are `statusRead_bits`, and both round trips follow from them. -/
theorem statusViewPacksAndUnpacks : Obligations.StatusViewPacksAndUnpacks := fun s b =>
  ⟨statusRead_bits s, rfl, statusRead_statusWrite b s, statusWrite_statusRead s⟩

/-- Settles O6: the top bit and the comparison with 128 agree by `withZN_eq`. -/
theorem zeroNegativeHelper : Obligations.ZeroNegativeHelper := fun r s => (withZN_eq r s).symm

/-! ### The halt latch (R36, R261, R295, R296) -/

/-- The KIL bytes are the ones that decode to a halting instruction (R84, R85). The opcode byte alone selects the row,
so the 256 rows are compared with the operands left symbolic. -/
theorem setsHalt_decodeStaged (op data : Byte) (addr : Word) :
    setsHalt (decodeStaged op data addr) = kilOpcodes.contains op := by
  revert op
  exact of_decide_eq_true rfl

/-- The instruction that sets the halt latch does nothing else (R261, D13). -/
theorem exec_of_setsHalt {i : Instr} (h : setsHalt i = true) (s : State) :
    exec i s = .next { s with halted := true } := by
  cases i with
  | kil => rfl
  | _ => cases h

theorem exec_halted {i : Instr} {s t : State} (h : exec i s = .next t) : t.halted = (s.halted || setsHalt i) := by
  obtain ⟨u, hu, -, -, -, -, -, -, -, hhalted⟩ := exec_bookkeeping i s
  cases hu.symm.trans h
  exact hhalted

@[simp] theorem serviceReset_halted (s : State) : s.serviceReset.halted = false := by
  rw [serviceReset_eq]

@[simp] theorem serviceNmi_halted (s : State) : s.serviceNmi.halted = s.halted := by
  rw [serviceNmi_eq]; rfl

@[simp] theorem serviceIrq_halted (s : State) : s.serviceIrq.halted = s.halted := by
  rw [serviceIrq_eq]; rfl

@[simp] theorem haltedStep_halted (s : State) : s.haltedStep.halted = s.halted := rfl

/-- A step that enters `Halted` staged a KIL byte, and added the halt latch to the staged state (R36, R261). -/
theorem step_enters_halted {s t : State} (h : step s = .next t) (hs : s.halted = false) (ht : t.halted = true) :
    s.stepBranch = .instruction ∧ s.mem.read s.pc ∈ kilOpcodes ∧ t = { s.beginStep.stage with halted := true } := by
  obtain ⟨-, -, e⟩ | ⟨-, -, hhalted, -⟩ | ⟨-, -, -, -, e⟩ | ⟨-, -, -, -, -, -, e⟩ | ⟨hb, -, -, -, -, e⟩ := step_cases s
  case inl | inr.inr.inl | inr.inr.inr.inl =>
    cases e.symm.trans h
    simp [hs] at ht
  case inr.inl => simp [hs] at hhalted
  case inr.inr.inr.inr =>
    rw [e] at h
    have hset : setsHalt s.beginStep.stage.stagedInstr = true := by simpa [exec_halted h, hs] using ht
    have hkil : kilOpcodes.contains (s.mem.read s.pc) = true := (setsHalt_decodeStaged _ _ _).symm.trans hset
    rw [exec_of_setsHalt hset] at h
    exact ⟨hb, List.contains_iff_mem.mp hkil, (Host.Outcome.next.inj h).symm⟩

/-- A step that leaves `Halted` is the reset sequence (R295, R296). -/
theorem step_leaves_halted {s t : State} (h : step s = .next t) (hs : s.halted = true) (ht : t.halted = false) :
    s.resetPending = true ∧ t = s.beginStep.serviceReset := by
  obtain ⟨-, hreset, e⟩ | ⟨-, -, -, e⟩ | ⟨-, -, hrun, -⟩ | ⟨-, -, hrun, -⟩ | ⟨-, -, hrun, -⟩ := step_cases s
  case inl => exact ⟨hreset, Host.Outcome.next.inj (h.symm.trans e)⟩
  case inr.inl =>
    cases e.symm.trans h
    simp [hs] at ht
  all_goals simp [hs] at hrun

/-- Settles O50: entering and leaving `Halted` each pin the whole state the step ends in. -/
theorem onlyKilHaltsOnlyResetResumes : Obligations.OnlyKilHaltsOnlyResetResumes := by
  intro s t h
  constructor
  · intro hs ht
    obtain ⟨hb, hkil, rfl⟩ := step_enters_halted h hs ht
    exact ⟨hb, hkil, stage_pc s.beginStep, stage_cycles s.beginStep⟩
  · intro hs ht
    obtain ⟨hreset, rfl⟩ := step_leaves_halted h hs ht
    exact ⟨hreset, by rw [serviceReset_eq]; rfl⟩

end Sys2Proof.Machine
end

section
/-! PROOF. The statements of 20_memory.md: the canonical memory list, word reads, the stack, `load`, and what a step
writes. -/

namespace Sys2Proof.Machine

/-! ### The write events of a trace (R58, R63) -/

/-- A byte that no event writes keeps its value. -/
theorem read_replayWrites {es : List Event} {a : Word} (m : Memory) (h : ∀ v : Byte, Event.write a v ∉ es) :
    (replayWrites es m).read a = m.read a := by
  induction es generalizing m with
  | nil => rfl
  | cons e rest ih =>
    have hrest : ∀ v : Byte, Event.write a v ∉ rest := fun v hv => h v (List.mem_cons_of_mem _ hv)
    cases e with
    | write a' v =>
      have hne : a ≠ a' := by
        rintro rfl
        exact h v List.mem_cons_self
      simp [replayWrites, ih _ hrest, hne]
    | _ => exact ih m hrest

theorem wf_replayWrites (es : List Event) {m : Memory} (hm : m.wf = true) : (replayWrites es m).wf = true := by
  induction es generalizing m with
  | nil => exact hm
  | cons e rest ih =>
    cases e with
    | write a v => exact ih (wf_write a v hm)
    | _ => exact ih hm

/-- NMI service writes the three bytes its events name. -/
theorem serviceNmi_replays (s : State) :
    s.beginStep.serviceNmi.mem = replayWrites s.beginStep.serviceNmi.trace s.mem := by
  rw [serviceNmi_eq]; rfl

/-- IRQ service writes the three bytes its events name. -/
theorem serviceIrq_replays (s : State) :
    s.beginStep.serviceIrq.mem = replayWrites s.beginStep.serviceIrq.trace s.mem := by
  rw [serviceIrq_eq]; rfl

/-- The events an instruction appends hold all its writes. -/
theorem exec_appends {i : Instr} {s t : State} (h : exec i s = .next t) :
    ∃ es, t.trace = s.trace ++ es ∧ t.mem = replayWrites es s.mem := by
  obtain ⟨u, hu, ⟨es, k, htrace, -, -, hmem⟩, -⟩ := exec_bookkeeping i s
  obtain rfl : u = t := Host.Outcome.next.inj (hu.symm.trans h)
  exact ⟨es ++ tickEvents s.cycles k, by rw [htrace, List.append_assoc],
    by rw [hmem, replayWrites_append, replayWrites_tickEvents]⟩

/-- The staging before an instruction makes reads only (R82). -/
theorem exec_stage_replays {i : Instr} {s t : State} (h : exec i s.beginStep.stage = .next t) :
    t.mem = replayWrites t.trace s.mem := by
  obtain ⟨es, htrace, hmem⟩ := exec_appends h
  rw [hmem, htrace, replayWrites_append, stage_mem, stage_trace]
  rfl

/-- The memory after a step is the one before with the step's write events applied in order. -/
theorem step_mem {s t : State} (h : step s = .next t) : t.mem = replayWrites t.trace s.mem := by
  obtain ⟨-, -, e⟩ | ⟨-, -, -, e⟩ | ⟨-, -, -, -, e⟩ | ⟨-, -, -, -, -, -, e⟩ | ⟨-, -, -, -, -, e⟩ := step_cases s
  case inr.inr.inr.inr => exact exec_stage_replays (e.symm.trans h)
  all_goals cases e.symm.trans h
  case inl => rw [serviceReset_eq]; rfl
  case inr.inl => rfl
  case inr.inr.inl => exact serviceNmi_replays s
  case inr.inr.inr.inl => exact serviceIrq_replays s

/-- Settles O53: `step_mem` says what memory is, and a replay leaves the unwritten bytes alone. -/
theorem traceRecordsEveryWrite : Obligations.TraceRecordsEveryWrite := fun s _ h =>
  ⟨step_mem h, fun _ ha => (congrArg (Memory.read · _) (step_mem h)).trans (read_replayWrites s.mem ha)⟩

/-- Settles O56: a step's memory is a replay of writes, each of which keeps the canonical form. -/
theorem stepKeepsMemoryCanonical : Obligations.StepKeepsMemoryCanonical := by
  intro s t hs h
  unfold State.memOk
  rw [step_mem h]
  exact wf_replayWrites _ hs

/-- Settles O57: at reset nothing is in the memory list. -/
theorem resetMemoryIsCanonical : Obligations.ResetMemoryIsCanonical := rfl

/-! ### The canonical list is determined by its bytes (R50, R63) -/

theorem wfFrom_cons_iff {lo k : Nat} {b : Byte} {rest : Memory} :
    Memory.wfFrom lo ((k, b) :: rest) = true ↔
      lo ≤ k ∧ k < 65536 ∧ b ≠ Config.unlistedByte ∧ Memory.wfFrom (k + 1) rest = true := by
  simp [Memory.wfFrom, and_assoc]

/-- Below the least address of a canonical list, every byte is unlisted. -/
theorem read_of_wfFrom_lt {lo : Nat} {m : Memory} {a : Word} (hm : Memory.wfFrom lo m = true) (ha : a.toNat < lo) :
    m.read a = Config.unlistedByte := by
  induction m generalizing lo with
  | nil => rfl
  | cons e rest ih =>
    obtain ⟨k, b⟩ := e
    obtain ⟨hlo, -, -, hrest⟩ := wfFrom_cons_iff.mp hm
    rw [Memory.read, if_neg (by omega)]
    exact ih hrest (by omega)

theorem read_cons_head {k : Nat} (hk : k < 65536) (b : Byte) (rest : Memory) :
    Memory.read ((k, b) :: rest) (BitVec.ofNat 16 k) = b := by
  simp [Memory.read, Nat.mod_eq_of_lt hk]

/-- A canonical list that reads like another starts no later: its head address is listed, so the other lists it too. -/
theorem head_le_of_read_eq {lo lo' k k' : Nat} {b b' : Byte} {rest rest' : Memory}
    (hm : Memory.wfFrom lo ((k, b) :: rest) = true) (hm' : Memory.wfFrom lo' ((k', b') :: rest') = true)
    (hread : ∀ a : Word, Memory.read ((k, b) :: rest) a = Memory.read ((k', b') :: rest') a) : k' ≤ k := by
  obtain ⟨-, hk, hb, -⟩ := wfFrom_cons_iff.mp hm
  have hfrom : Memory.wfFrom k' ((k', b') :: rest') = true :=
    wfFrom_cons_iff.mpr ⟨le_rfl, (wfFrom_cons_iff.mp hm').2⟩
  by_contra hlt
  apply hb
  calc b = Memory.read ((k, b) :: rest) (BitVec.ofNat 16 k) := (read_cons_head hk b rest).symm
    _ = Memory.read ((k', b') :: rest') (BitVec.ofNat 16 k) := hread _
    _ = Config.unlistedByte := read_of_wfFrom_lt hfrom (by simp; omega)

/-- Canonical lists that read alike have the same head, and their tails, which list nothing at the head's address, read
alike again. -/
theorem eq_of_wfFrom_of_read_eq {lo lo' : Nat} {m m' : Memory} (hm : Memory.wfFrom lo m = true)
    (hm' : Memory.wfFrom lo' m' = true) (hread : ∀ a : Word, m.read a = m'.read a) : m = m' := by
  induction m generalizing lo lo' m' with
  | nil =>
    cases m' with
    | nil => rfl
    | cons e' rest' =>
      obtain ⟨k', b'⟩ := e'
      obtain ⟨-, hk', hb', -⟩ := wfFrom_cons_iff.mp hm'
      exact absurd ((read_cons_head hk' b' rest').symm.trans (hread _).symm) hb'
  | cons e rest ih =>
    obtain ⟨k, b⟩ := e
    obtain ⟨-, hk, hb, hrest⟩ := wfFrom_cons_iff.mp hm
    cases m' with
    | nil => exact absurd ((read_cons_head hk b rest).symm.trans (hread _)) hb
    | cons e' rest' =>
      obtain ⟨k', b'⟩ := e'
      obtain ⟨-, -, -, hrest'⟩ := wfFrom_cons_iff.mp hm'
      obtain rfl : k = k' := le_antisymm (head_le_of_read_eq hm' hm fun a => (hread a).symm)
        (head_le_of_read_eq hm hm' hread)
      obtain rfl : b = b' := by
        rw [← read_cons_head hk b rest, hread, read_cons_head hk]
      have htail : ∀ a : Word, Memory.read rest a = Memory.read rest' a := by
        intro a
        by_cases ha : k = a.toNat
        · rw [read_of_wfFrom_lt hrest (by omega), read_of_wfFrom_lt hrest' (by omega)]
        · simpa [Memory.read, ha] using hread a
      rw [ih hrest hrest' htail]

/-- Settles O7: the extensionality of lists canonical from any address, at 0. -/
theorem canonicalMemoriesAreDetermined : Obligations.CanonicalMemoriesAreDetermined := fun _ _ hm hm' =>
  eq_of_wfFrom_of_read_eq hm hm'

/-! ### Word reads and the stack (R52, R61, R62) -/

theorem word_add_one (a : Word) : a + 1 = BitVec.ofNat 16 ((a.toNat + 1) % 65536) := by
  apply BitVec.eq_of_toNat_eq
  simp [BitVec.toNat_add]

theorem byte_add_one (b : Byte) : b + 1 = BitVec.ofNat 8 ((b.toNat + 1) % 256) := by
  apply BitVec.eq_of_toNat_eq
  simp [BitVec.toNat_add]

theorem byte_sub_one (b : Byte) : b - 1 = BitVec.ofNat 8 ((b.toNat + 255) % 256) := by
  apply BitVec.eq_of_toNat_eq
  simp [BitVec.toNat_sub, Nat.add_comm]

theorem stackAddr_eq_ofNat (sp : Byte) : stackAddr sp = BitVec.ofNat 16 (0x0100 + sp.toNat) := by
  apply BitVec.eq_of_toNat_eq
  rw [stackAddr_toNat, BitVec.toNat_ofNat, Nat.mod_eq_of_lt (by omega)]

/-- Settles O8: the word is `joinBytes` of the two bytes, and the reads are `read16_snd`. -/
theorem read16IsLittleEndian : Obligations.Read16IsLittleEndian := by
  intro a s
  rw [← word_add_one]
  exact ⟨by rw [read16_fst, joinBytes_toNat], read16_snd a s⟩

/-- A pull designates the byte that the push before it wrote. -/
theorem pull_push (w : Byte) (s : State) : (s.push w).pull.1 = w ∧ (s.push w).pull.2.sp = s.sp := by
  simp

/-- Settles O9: the model's own push and pull, with the stack addresses as numbers. -/
theorem stackPushesAndPulls : Obligations.StackPushesAndPulls := by
  intro w s
  have hpulled : 0x0100 + (s.sp.toNat + 1) % 256 = 0x0100 + (s.sp + 1).toNat := by simp [BitVec.toNat_add]
  rw [hpulled, ← byte_add_one, ← byte_sub_one, ← stackAddr_eq_ofNat, ← stackAddr_eq_ofNat]
  exact ⟨rfl, fun b => by rw [push_mem, read_write], rfl, pull_push w s⟩

/-! ### `load` (R60) -/

/-- Bytes written upwards from an address, with the wrap mod 2^16: the byte at distance `d` above it is the one with
index `d`, as long as the write does not come around onto its own start. -/
theorem read_writeFrom (m : Memory) (a : Word) (bs : List Byte) (hlen : bs.length ≤ 65536) (b : Word) :
    (m.writeFrom a bs).read b = if (b - a).toNat < bs.length then bs.getD (b - a).toNat 0 else m.read b := by
  induction bs generalizing m a with
  | nil => rfl
  | cons v rest ih =>
    rw [List.length_cons] at hlen
    rw [Memory.writeFrom, ih _ _ (by omega), read_write]
    by_cases hb : b = a
    · have hwrap : (b - (a + 1)).toNat = 65535 := by bv_omega
      have hstart : (b - a).toNat = 0 := by simp [hb]
      simp only [hwrap, hstart, List.length_cons, if_neg (show ¬65535 < rest.length by omega), if_pos hb,
        if_pos (Nat.succ_pos _), List.getD_cons_zero]
    · have hnext : (b - a).toNat = (b - (a + 1)).toNat + 1 := by bv_omega
      simp only [hnext, List.length_cons, if_neg hb, Nat.add_lt_add_iff_right, List.getD_cons_succ]

/-- The same where the write ends within the address space, as a range of addresses. -/
theorem read_writeFrom_of_le (m : Memory) (a : Word) (bs : List Byte) (hlen : a.toNat + bs.length ≤ 65536) (b : Word) :
    (m.writeFrom a bs).read b =
      if a.toNat ≤ b.toNat ∧ b.toNat < a.toNat + bs.length then bs.getD (b.toNat - a.toNat) 0 else m.read b := by
  rw [read_writeFrom m a bs (by omega)]
  by_cases hab : a.toNat ≤ b.toNat
  · have hsub : (b - a).toNat = b.toNat - a.toNat := BitVec.toNat_sub_of_le hab
    have hiff : b.toNat - a.toNat < bs.length ↔ a.toNat ≤ b.toNat ∧ b.toNat < a.toNat + bs.length := by omega
    simp only [hsub, hiff]
  · have hsub : ¬(b - a).toNat < bs.length := by bv_omega
    rw [if_neg hsub, if_neg fun h => hab h.1]

/-- Every byte of memory after `load`: the copied part of the source ends within the address space (R60). -/
theorem read_loadProgram (src : List Byte) (base : Word) (size : Nat) (s : State) (b : Word) :
    (s.loadProgram src base size).mem.read b =
      if base.toNat ≤ b.toNat ∧ b.toNat < base.toNat + min (loadCount src base size) src.length
      then src.getD (b.toNat - base.toNat) 0 else s.mem.read b := by
  have hlen : (src.take (loadCount src base size)).length = min (loadCount src base size) src.length :=
    List.length_take
  have hfits : loadCount src base size ≤ 65536 - base.toNat := min_le_right _ _
  rw [State.loadProgram, read_writeFrom_of_le _ _ _ (by omega), hlen]
  split
  case isTrue hb =>
    rw [List.getD_eq_getElem?_getD, List.getElem?_take_of_lt (by omega), List.getD_eq_getElem?_getD]
  case isFalse => rfl

/-- Settles O10: `n` is the number of bytes of the copied part of the source. -/
theorem loadCopiesIntoMemory : Obligations.LoadCopiesIntoMemory := fun src base size s =>
  ⟨min (loadCount src base size) src.length, rfl, read_loadProgram src base size s, rfl⟩

end Sys2Proof.Machine
end

section
/-! PROOF. The statements of 30_encoding.md: the decoder and the encoder undo each other, the opcode byte alone selects
the row, and an instruction step runs what it staged. -/

namespace Sys2Proof

open Machine

/-! ### What each opcode byte decodes to (R84, R85)

The opcode byte alone selects the row, so each of these facts compares the 256 rows with the operands left symbolic. -/

theorem wellFormed_decodeStaged (op data : Byte) (addr : Word) : (decodeStaged op data addr).wellFormed = true := by
  revert op
  exact of_decide_eq_true rfl

theorem opcode_decodeStaged (op data : Byte) (addr : Word) : (decodeStaged op data addr).opcode = some op := by
  revert op
  exact of_decide_eq_true rfl

/-- The opcode byte alone fixes the length of the encoding (R80). -/
theorem length_operandBytes_decodeStaged (op data : Byte) (addr : Word) :
    (decodeStaged op data addr).operandBytes.length = (decodeStaged op 0 0).operandBytes.length := by
  revert op
  exact of_decide_eq_true rfl

/-- The operands of a row are none, `Data`, or both bytes of `Address` (R83); the staged `Data` is the low byte of the
staged `Address` (R82). -/
theorem operandBytes_decodeStaged (op : Byte) (addr : Word) :
    (decodeStaged op (lo8 addr) addr).operandBytes =
      [lo8 addr, hi8 addr].take (decodeStaged op (lo8 addr) addr).operandBytes.length := by
  obtain ⟨k, hk⟩ := op
  interval_cases k <;> rfl

theorem length_operandBytes_decodeStaged_le_two (op : Byte) : (decodeStaged op 0 0).operandBytes.length ≤ 2 := by
  have h : (decodeStaged op 0 0).operandBytes.length = min (decodeStaged op 0 0).operandBytes.length 2 :=
    (congrArg List.length (operandBytes_decodeStaged op 0)).trans List.length_take
  omega

theorem decodeStaged_of_mem_ancOpcodes (data : Byte) (addr : Word) :
    ∀ op ∈ ancOpcodes, decodeStaged op data addr = .anc op data := by
  simp only [ancOpcodes, List.forall_mem_cons, List.not_mem_nil, false_implies, implies_true, and_true]
  exact ⟨rfl, rfl⟩

theorem decodeStaged_of_mem_kilOpcodes (data : Byte) (addr : Word) :
    ∀ op ∈ kilOpcodes, decodeStaged op data addr = .kil op := by
  simp only [kilOpcodes, List.forall_mem_cons, List.not_mem_nil, false_implies, implies_true, and_true]
  repeat' apply And.intro
  all_goals rfl

theorem decodeStaged_of_mem_failsoftOpcodes (data : Byte) (addr : Word) :
    ∀ op ∈ failsoftOpcodes, decodeStaged op data addr = .failsoft op := by
  simp only [failsoftOpcodes, List.forall_mem_append, List.forall_mem_cons, List.not_mem_nil, false_implies,
    implies_true, and_true]
  repeat' apply And.intro
  all_goals rfl

/-! ### Staging the encoding of an instruction -/

/-- The instruction that an opcode byte and its operand bytes stage; a byte that is no operand is taken as 0. -/
def stagedFrom (op : Byte) (operands : List Byte) : Instr :=
  decodeStaged op (operands.getD 0 0) (joinBytes (operands.getD 0 0) (operands.getD 1 0))

/-- `decode` consumes as many operand bytes as the opcode has, and stages them as `stagedFrom` does. -/
theorem decode_append {op : Byte} {operands : List Byte}
    (h : operands.length = (decodeStaged op 0 0).operandBytes.length) (rest : List Byte) :
    decode (op :: operands ++ rest) = .ok (stagedFrom op operands, rest) := by
  have hle := h.trans_le (length_operandBytes_decodeStaged_le_two op)
  match operands, h, hle with
  | [], h, _ | [_], h, _ | [_, _], h, _ => simp only [List.cons_append, List.nil_append, decode, ← h]; rfl

theorem stagedFrom_word (op : Byte) (a : Word) : stagedFrom op [lo8 a, hi8 a] = decodeStaged op (lo8 a) a :=
  congrArg (decodeStaged op (lo8 a)) (joinBytes_lo8_hi8 a)

/-- Every well-formed instruction has an opcode byte, which with the instruction's own operand bytes stages it (R80). A
row with no operand or a one-byte one is read back as it stands; a word is put together from its bytes again. -/
theorem exists_opcode_of_wellFormed {i : Instr} (h : i.wellFormed = true) :
    ∃ op, i.opcode = some op ∧ stagedFrom op i.operandBytes = i := by
  cases i
  case anc op v => exact ⟨op, rfl, decodeStaged_of_mem_ancOpcodes _ _ op (List.contains_iff_mem.mp h)⟩
  case kil op => exact ⟨op, rfl, decodeStaged_of_mem_kilOpcodes _ _ op (List.contains_iff_mem.mp h)⟩
  case failsoft op => exact ⟨op, rfl, decodeStaged_of_mem_failsoftOpcodes _ _ op (List.contains_iff_mem.mp h)⟩
  case jsr a => exact ⟨_, rfl, stagedFrom_word _ a⟩
  case jmp target => cases target <;> exact ⟨_, rfl, stagedFrom_word _ _⟩
  case' lda src | ldx src | ldy src | adc src | sbc src | cmp src | cpx src | cpy src | and src | ora src | eor src =>
    obtain v | m := src
    · exact ⟨_, rfl, rfl⟩
  case' asl dst | lsr dst | rol dst | ror dst =>
    obtain _ | m := dst
    · exact ⟨_, rfl, rfl⟩
  case' sta m | stx m | sty m | inc m | dec m | bit m => skip
  case bcc | bcs | beq | bne | bmi | bpl | bvc | bvs => exact ⟨_, rfl, rfl⟩
  case tax | tay | txa | tya | tsx | txs | inx | iny | dex | dey | rts | rti | brk => exact ⟨_, rfl, rfl⟩
  case pha | php | pla | plp | clc | sec | cli | sei | cld | sed | clv | nop => exact ⟨_, rfl, rfl⟩
  all_goals cases m with
  | zp d | zpx d | zpy d | indx d | indy d => cases h <;> exact ⟨_, rfl, rfl⟩
  | abs a | absx a | absy a => cases h <;> exact ⟨_, rfl, stagedFrom_word _ a⟩

/-- Settles O1: the opcode byte and the operand bytes stage the instruction again, and the opcode byte alone says how
many operand bytes there are. -/
theorem wellFormedRoundTrip : Obligations.WellFormedRoundTrip := by
  intro i hwf rest
  obtain ⟨op, hop, hstaged⟩ := exists_opcode_of_wellFormed hwf
  have hlen : i.operandBytes.length = (decodeStaged op 0 0).operandBytes.length :=
    (congrArg (·.operandBytes.length) hstaged).symm.trans (length_operandBytes_decodeStaged ..)
  refine ⟨op :: i.operandBytes, by simp [encode, hwf, hop], ?_⟩
  rw [decode_append hlen, hstaged]

/-- Settles O2: the encoding is the opcode byte and the operand bytes, and those are the staged ones. -/
theorem stagedBytesReencode : Obligations.StagedBytesReencode := by
  intro b0 b1 b2
  have hwf := wellFormed_decodeStaged b0 b1 (joinBytes b1 b2)
  have hoperands := operandBytes_decodeStaged b0 (joinBytes b1 b2)
  rw [lo8_joinBytes, hi8_joinBytes] at hoperands
  refine ⟨hwf, ?_⟩
  rw [encode, if_pos hwf, opcode_decodeStaged, List.take_succ_cons, ← hoperands, Option.map_some]

/-- The number of bytes of R85 (a): a closed count over the 256 bytes, which the kernel evaluates. -/
theorem countP_documentedOpcodes :
    ((List.range 256).countP fun k =>
      !(ancOpcodes ++ kilOpcodes ++ failsoftOpcodes).contains (BitVec.ofNat 8 k)) = 151 := by
  decide +kernel

/-- Settles O3: a row of ANC, KIL or the fail-soft no-op is well-formed only at its own bytes. -/
theorem decoderPartitionsTheBytes : Obligations.DecoderPartitionsTheBytes := by
  refine ⟨fun op data addr => ?_, countP_documentedOpcodes, rfl, rfl, rfl, by decide⟩
  have hwf := wellFormed_decodeStaged op data addr
  refine ⟨opcode_decodeStaged op data addr, ⟨decodeStaged_of_mem_ancOpcodes data addr op, fun h => ?_⟩,
    ⟨decodeStaged_of_mem_kilOpcodes data addr op, fun h => ?_⟩,
    ⟨decodeStaged_of_mem_failsoftOpcodes data addr op, fun h => ?_⟩⟩
  all_goals
    rw [h] at hwf
    exact List.contains_iff_mem.mp hwf

/-- Settles O43: the conditions leave the instruction branch, which stages with a cleared trace. -/
theorem stepRunsTheDecodedInstruction : Obligations.StepRunsTheDecodedInstruction := by
  intro s hreset hhalted hnmi hirq
  obtain ⟨-, h, -⟩ | ⟨-, -, h, -⟩ | ⟨-, -, -, h, -⟩ | ⟨-, -, -, -, h, hi, -⟩ | ⟨-, -, -, -, -, e⟩ := step_cases s
  case inr.inr.inr.inr =>
    rw [e, stage_eq]
    rfl
  case inr.inr.inr.inl => simp [h, hi] at hirq
  case inl => cases hreset.symm.trans h
  case inr.inl => cases hhalted.symm.trans h
  case inr.inr.inl => cases hnmi.symm.trans h

end Sys2Proof
end

section
/-! PROOF. The statements of 40_addressing.md: the addressing modes, operand loads, branches and jumps, and what every
opcode byte costs and how far it moves the program counter. -/

namespace Sys2Proof.Machine

/-! ### Addresses as numbers (R56, R103) -/

theorem pageCross_iff (a b : Word) : pageCross a b = true ↔ a.toNat / 256 ≠ b.toNat / 256 := by
  rw [pageCross, bne_iff_ne, ne_eq, ← BitVec.toNat_inj, hi8_toNat, hi8_toNat]

theorem toNat_add_zext16 (a : Word) (k : Byte) : (a + zext16 k).toNat = (a.toNat + k.toNat) % 65536 := by
  rw [BitVec.toNat_add, zext16_toNat]

theorem zext16_eq_ofNat (b : Byte) : zext16 b = BitVec.ofNat 16 b.toNat := by
  apply BitVec.eq_of_toNat_eq
  rw [zext16_toNat, BitVec.toNat_ofNat, Nat.mod_eq_of_lt (by omega)]

theorem byte_add (b k : Byte) : b + k = BitVec.ofNat 8 ((b.toNat + k.toNat) % 256) := by
  apply BitVec.eq_of_toNat_eq
  simp [BitVec.toNat_add]

theorem toNat_zext16_add (d k : Byte) : (zext16 (d + k)).toNat = (d.toNat + k.toNat) % 256 := by
  rw [zext16_toNat, BitVec.toNat_add]

/-- An indexed address crosses a page against its base when the sum, wrapped, has another high byte (R109, R110). -/
theorem pageCross_index_iff (a : Word) (k : Byte) :
    pageCross (a + zext16 k) a = true ↔ ((a.toNat + k.toNat) % 65536) / 256 ≠ a.toNat / 256 := by
  rw [pageCross_iff, toNat_add_zext16]

/-! ### The modes (R104 to R112, R118) -/

/-- Settles O11: an index is added within the byte before the zero extension. -/
theorem zeroPageModes : Obligations.ZeroPageModes := fun d s =>
  ⟨⟨zext16_toNat d, rfl, rfl, rfl⟩, ⟨toNat_zext16_add d s.x, rfl, rfl, rfl⟩,
    ⟨toNat_zext16_add d s.y, rfl, rfl, rfl⟩, rfl, rfl, rfl⟩

/-- Settles O12: both indexed modes are the base plus a zero-extended register. -/
theorem absoluteModes : Obligations.AbsoluteModes := fun a s =>
  ⟨⟨rfl, rfl, rfl, rfl⟩, ⟨toNat_add_zext16 a s.x, pageCross_index_iff a s.x, rfl, rfl⟩,
    ⟨toNat_add_zext16 a s.y, pageCross_index_iff a s.y, rfl, rfl⟩⟩

theorem ptr16_false (p : Byte) (s : State) :
    s.ptr16 false p =
      (joinBytes (s.mem.read (BitVec.ofNat 16 p.toNat)) (s.mem.read (BitVec.ofNat 16 (p.toNat + 1))),
        s.emit [.read (BitVec.ofNat 16 p.toNat), .read (BitVec.ofNat 16 (p.toNat + 1))]) := by
  have hnext : zext16 p + 1 = BitVec.ofNat 16 (p.toNat + 1) := by
    rw [zext16_eq_ofNat, BitVec.ofNat_add]
    rfl
  rw [← hnext, ← zext16_eq_ofNat]
  exact Prod.ext (read16_fst _ s) (read16_snd _ s)

theorem ptr16_true (p : Byte) (s : State) :
    s.ptr16 true p =
      (joinBytes (s.mem.read (BitVec.ofNat 16 p.toNat)) (s.mem.read (BitVec.ofNat 16 ((p.toNat + 1) % 256))),
        s.emit [.read (BitVec.ofNat 16 p.toNat), .read (BitVec.ofNat 16 ((p.toNat + 1) % 256))]) := by
  have hnext : zext16 (p + 1) = BitVec.ofNat 16 ((p.toNat + 1) % 256) := by
    rw [zext16_eq_ofNat, BitVec.toNat_add]
    rfl
  rw [← hnext, ← zext16_eq_ofNat]
  exact Prod.ext rfl (emit_emit _ _ s)

/-- Settles O13: the pointer is `ptr16_false` or `ptr16_true`, and the modes take the model's own `ptr16 false` of an
8-bit sum, or add Y to it as an absolute mode does. -/
theorem indirectModes : Obligations.IndirectModes := by
  intro d s
  refine ⟨?_, ?_, ?_, ⟨toNat_add_zext16 _ s.y, rfl, pageCross_index_iff _ s.y, rfl⟩⟩
  · rw [ptr16_false]
    exact ⟨joinBytes_toNat _ _, rfl⟩
  · rw [ptr16_true]
    exact ⟨joinBytes_toNat _ _, rfl⟩
  · rw [← byte_add]
    exact ⟨rfl, rfl, rfl, rfl⟩

/-- Settles O14: the read of a memory operand is `loadMem_eq`. -/
theorem operandLoads : Obligations.OperandLoads := fun _ m s => ⟨rfl, rfl, rfl, loadMem_eq m s⟩

/-! ### Branches and jumps (R115, R116, R210 to R220) -/

theorem signed_eq_toInt (b : Byte) : signed b = b.toInt := by
  rw [signed, BitVec.toInt_eq_toNat_cond]
  split <;> split <;> omega

/-- A sign-extended offset is the offset as a number, mod 2^16. -/
theorem sext16_toNat (b : Byte) : ((sext16 b).toNat : Int) = signed b % 65536 := by
  have hext : (sext16 b).toInt = b.toInt := BitVec.toInt_signExtend_of_le (by decide)
  rw [signed_eq_toInt, ← hext, BitVec.toInt_eq_toNat_cond]
  split <;> omega

theorem toNat_add_sext16 (pcNext : Word) (off : Byte) :
    ((pcNext + sext16 off).toNat : Int) = ((pcNext.toNat : Int) + signed off) % 65536 := by
  have hoff := sext16_toNat off
  rw [BitVec.toNat_add]
  omega

/-- An instruction whose meaning is `Branch(cond)` keeps the branch rule (R210). -/
theorem branchRule_of_exec {mk : Byte → Instr} {cond : State → Bool} {op : Byte}
    (hdecode : ∀ data addr, decodeStaged op data addr = mk data)
    (hexec : ∀ off s, exec (mk off) s = branch (cond s) off s) : BranchRule mk cond op := fun data addr s =>
  ⟨hdecode data addr, (hexec data s).trans (branch_eq (cond s) data s)⟩

/-- Settles O30: each branch is the shared operation under its own condition. -/
theorem branchRules : Obligations.BranchRules := by
  refine ⟨?_, ?_, ?_, ?_, ?_, ?_, ?_, ?_, toNat_add_sext16⟩
  all_goals exact branchRule_of_exec (fun _ _ => rfl) (fun _ _ => rfl)

/-- Settles O31: the pointer of the indirect form is a plain `Read16`. -/
theorem jumpRules : Obligations.JumpRules := by
  intro data addr s
  refine ⟨rfl, congrArg _ (emitTicks_ends 3 _), rfl, ?_⟩
  rw [exec, execJmp, read16_fst, read16_snd, emitTicks_ends]
  rfl

/-! ### What an instruction charges, and where it leaves the program counter (R101, R117, R120)

Said once for all of `exec`, by instruction class; the table of the 256 bytes is compared with it afterwards. -/

/-- What an instruction costs before the penalties of R117 and R210. -/
def baseCycles : Instr → Nat
  | .lda p | .ldx p | .ldy p | .adc p | .sbc p | .cmp p | .cpx p | .cpy p | .and p | .ora p | .eor p => readCycles p
  | .bit m => readCycles (.mem m)
  | .sta m | .stx m | .sty m => storeCycles m
  | .inc m | .dec m => rmwCycles (.mem m)
  | .asl t | .lsr t | .rol t | .ror t => rmwCycles t
  | .jmp (.abs _) | .pha | .php => 3
  | .pla | .plp => 4
  | .jmp (.ind _) => 5
  | .jsr _ | .rts | .rti => 6
  | .brk => 7
  | .kil _ => 0
  | _ => 2

/-- How far PC advances before the operation: over the encoding (R101), for BRK also over the signature byte, which is
no operand (R224), and for KIL not at all (R261). -/
def pcAdvance : Instr → Nat
  | .kil _ => 0
  | .brk => 2
  | i => i.operandBytes.length + 1

/-- The branches, JMP, JSR, RTS, RTI and BRK (44_control.md). -/
def transfersControl : Instr → Bool
  | .bcc _ | .bcs _ | .beq _ | .bne _ | .bmi _ | .bpl _ | .bvc _ | .bvs _ | .jmp _ | .jsr _ | .rts | .rti | .brk => true
  | _ => false

/-- The modes that can report a page cross (R109, R110, R112). -/
def mayCross : MemMode → Bool
  | .absx _ | .absy _ | .indy _ => true
  | _ => false

def srcMayCross : Src → Bool
  | .imm _ => false
  | .mem m => mayCross m

/-- The instructions that pay for a page cross: the read class, in a mode that can report one (R117). -/
def pageSensitive : Instr → Bool
  | .lda p | .ldx p | .ldy p | .adc p | .sbc p | .cmp p | .cpx p | .cpy p | .and p | .ora p | .eor p => srcMayCross p
  | .bit m => mayCross m
  | _ => false

theorem memLen_eq (m : MemMode) : memLen m = BitVec.ofNat 16 (m.operandBytes.length + 1) := by cases m <;> rfl

theorem srcLen_eq (src : Src) : srcLen src = BitVec.ofNat 16 (src.operandBytes.length + 1) := by
  cases src with
  | imm v => rfl
  | mem m => exact memLen_eq m

theorem dstLen_eq (dst : Dst) : dstLen dst = BitVec.ofNat 16 (dst.operandBytes.length + 1) := by
  cases dst with
  | acc => rfl
  | mem m => exact memLen_eq m

theorem resolve_cross_of_not_mayCross {m : MemMode} (h : mayCross m = false) (s : State) :
    (s.resolve m).cross = false := by
  cases m with
  | absx a | absy a | indy d => cases h
  | _ => rfl

theorem load_cross_of_not_srcMayCross {src : Src} (h : srcMayCross src = false) (s : State) :
    (s.load src).cross = false := by
  cases src with
  | imm v => rfl
  | mem m => exact resolve_cross_of_not_mayCross h s

/-- The page-cross cycle of the read class, in the terms of R117. -/
theorem load_cross_toNat (src : Src) (s : State) :
    (s.load src).cross.toNat = if srcMayCross src = true ∧ (s.load src).cross = true then 1 else 0 := by
  cases hmode : srcMayCross src with
  | false => rw [load_cross_of_not_srcMayCross hmode]; rfl
  | true => cases (s.load src).cross <;> rfl

/-- How an instruction without control transfer ends: PC is `len` further, and `cost` cycles are charged. -/
def Charged (len : Word) (cost : Nat) (s t : State) : Prop :=
  t.pc = s.pc + len ∧ t.cycles = s.cycles + cost

/-- An effect that leaves the program counter and the cycle counter alone. -/
def KeepsCounters (act : State → State) : Prop :=
  ∀ t, (act t).pc = t.pc ∧ (act t).cycles = t.cycles

@[simp] theorem emitTicks_pc (k : Nat) (s : State) : (s.emitTicks k).pc = s.pc := by rw [emitTicks_eq]

@[simp] theorem emitTicks_cycles (k : Nat) (s : State) : (s.emitTicks k).cycles = s.cycles + k := by rw [emitTicks_eq]

/-- Such an effect between the advance of PC and the ticks does not change the charge. -/
theorem KeepsCounters.charged {act : State → State} (h : KeepsCounters act) {s t : State} {len : Word}
    (ht : Charged len 0 s t) (k : Nat) : Charged len k s ((act t).emitTicks k) := by
  obtain ⟨hactPc, hactCycles⟩ := h t
  obtain ⟨hpc, hcycles⟩ := ht
  exact ⟨by rw [emitTicks_pc, hactPc, hpc], by rw [emitTicks_cycles, hactCycles, hcycles, Nat.add_zero]⟩

theorem readOp_charged (src : Src) {act : Byte → State → State} (h : ∀ m, KeepsCounters (act m)) (s : State) :
    ∃ t, readOp src act s = .next t ∧ Charged (srcLen src) (readCycles src + (s.load src).cross.toNat) s t := by
  refine ⟨_, readOp_eq src act s, (h _).charged ?_ _⟩
  exact ⟨rfl, rfl⟩

theorem storeOp_charged (m : MemMode) (v : Byte) (s : State) :
    ∃ t, storeOp m v s = .next t ∧ Charged (memLen m) (storeCycles m) s t :=
  ⟨_, storeOp_eq m v s, rfl, rfl⟩

theorem rmwOp_charged (dst : Dst) (result : Byte → Byte) {flags : Byte → Byte → State → State}
    (h : ∀ m r, KeepsCounters (flags m r)) (s : State) :
    ∃ t, rmwOp dst result flags s = .next t ∧ Charged (dstLen dst) (rmwCycles dst) s t := by
  cases dst with
  | acc =>
    refine ⟨_, rmwOp_acc_eq result flags s, (h _ _).charged ?_ _⟩
    exact ⟨rfl, rfl⟩
  | mem m =>
    refine ⟨_, rmwOp_mem_eq m result flags s, (h _ _).charged ?_ _⟩
    exact ⟨rfl, rfl⟩

theorem implied_charged (k : Nat) {act : State → State} (h : KeepsCounters act) (s : State) :
    ∃ t, implied k act s = .next t ∧ Charged 1 k s t :=
  ⟨_, rfl, h.charged (show Charged 1 0 s (s.advance 1) from ⟨rfl, rfl⟩) k⟩

/-- What any instruction charges, and where it leaves PC unless it transfers control. -/
def ChargesAsClassed (i : Instr) (s t : State) : Prop :=
  t.cycles = s.cycles + baseCycles i + (if pageSensitive i = true ∧ modeCross i s = true then 1 else 0)
    + branchCharge i s ∧
  (transfersControl i = false → t.pc = s.pc + BitVec.ofNat 16 (pcAdvance i))

/-- An instruction that neither branches nor transfers control is accounted for by its class. -/
theorem charges_of_charged {i : Instr} {s : State} {o : Host.Outcome State Fault Refusal} {len : Word} {cost : Nat}
    (h : ∃ t, o = .next t ∧ Charged len cost s t) (hlen : len = BitVec.ofNat 16 (pcAdvance i))
    (hcost : cost = baseCycles i + (if pageSensitive i = true ∧ modeCross i s = true then 1 else 0))
    (hbranch : branchCharge i s = 0) : ∃ t, o = .next t ∧ ChargesAsClassed i s t := by
  obtain ⟨t, ht, hpc, hcycles⟩ := h
  exact ⟨t, ht, by rw [hcycles, hcost, hbranch, Nat.add_zero, Nat.add_assoc], fun _ => hlen ▸ hpc⟩

/-- A taken branch pays 1 cycle beyond the base cost, and 1 more to another page (R210). -/
theorem charges_of_branch {i : Instr} {s : State} {cond : Bool} {off : Byte} (hbase : baseCycles i = 2)
    (hmode : pageSensitive i = false) (htransfer : transfersControl i = true)
    (hcharge : branchCharge i s =
      if cond then 1 + (if hi8 (s.pc + 2 + sext16 off) = hi8 (s.pc + 2) then 0 else 1) else 0) :
    ∃ t, branch cond off s = .next t ∧ ChargesAsClassed i s t := by
  refine ⟨_, branch_eq cond off s, ?_, by simp [htransfer]⟩
  rw [hcharge, hbase, hmode]
  cases cond with
  | false => rfl
  | true => simp only [if_true]; split <;> rfl

/-- A jump, call, return or BRK charges its base cost alone. -/
theorem charges_of_transfer (i : Instr) {s t : State} (k : Nat) (htransfer : transfersControl i = true)
    (hcycles : t.cycles = s.cycles) (hbase : baseCycles i = k) (hmode : pageSensitive i = false)
    (hbranch : branchCharge i s = 0) :
    ∃ u, (.next (t.emitTicks k) : Host.Outcome State Fault Refusal) = .next u ∧ ChargesAsClassed i s u :=
  ⟨_, rfl, by simp [hcycles, hbase, hmode, hbranch], by simp [htransfer]⟩

@[simp] theorem pushWord_cycles (w : Word) (s : State) : (s.pushWord w).cycles = s.cycles := by rw [pushWord_eq]

@[simp] theorem returnFromInterrupt_cycles (s : State) : s.returnFromInterrupt.cycles = s.cycles := by
  rw [returnFromInterrupt_eq]
  rfl

@[simp] theorem enterInterrupt_cycles (vector : Word) (b : Byte) (s : State) :
    (s.enterInterrupt vector b).cycles = s.cycles := by
  simp [State.enterInterrupt]

/-- Every instruction is of one of the shared shapes, or a jump, call, return, BRK or KIL; each shape's charge is one of
the lemmas above. -/
theorem exec_charges (i : Instr) (s : State) : ∃ t, exec i s = .next t ∧ ChargesAsClassed i s t := by
  cases i
  case lda p | ldx p | ldy p | adc p | sbc p | cmp p | cpx p | cpy p | and p | ora p | eor p =>
    simp only [exec, execLda, execLdx, execLdy, execAdc, execSbc, execCmp, execCpx, execCpy, execAnd, execOra, execEor]
    refine charges_of_charged (readOp_charged p ?_ s) (srcLen_eq p) (congrArg _ (load_cross_toNat p s)) rfl
    exact fun _ _ => ⟨rfl, rfl⟩
  case bit m =>
    have hcross := load_cross_toNat (.mem m) s
    refine charges_of_charged (readOp_charged (.mem m) ?_ s) (memLen_eq m) (congrArg _ hcross) rfl
    exact fun _ _ => ⟨rfl, rfl⟩
  case anc op v =>
    simp only [exec, execAnc]
    refine charges_of_charged (readOp_charged (.imm v) ?_ s) rfl rfl rfl
    exact fun _ _ => ⟨rfl, rfl⟩
  case sta m | stx m | sty m => exact charges_of_charged (storeOp_charged m _ s) (memLen_eq m) rfl rfl
  case inc m | dec m =>
    simp only [exec, execInc, execDec]
    refine charges_of_charged (rmwOp_charged (.mem m) _ ?_ s) (memLen_eq m) rfl rfl
    exact fun _ _ _ => ⟨rfl, rfl⟩
  case asl dst | lsr dst | rol dst | ror dst =>
    simp only [exec, execAsl, execLsr, execRol, execRor]
    refine charges_of_charged (rmwOp_charged dst _ ?_ s) (dstLen_eq dst) rfl rfl
    exact fun _ _ _ => ⟨rfl, rfl⟩
  case bcc | bcs | beq | bne | bmi | bpl | bvc | bvs => exact charges_of_branch rfl rfl rfl rfl
  case jmp target =>
    cases target with
    | abs a => exact charges_of_transfer (.jmp (.abs a)) 3 rfl rfl rfl rfl rfl
    | ind p => exact charges_of_transfer (.jmp (.ind p)) 5 rfl (by simp) rfl rfl rfl
  case jsr a => exact charges_of_transfer (.jsr a) 6 rfl (by simp) rfl rfl rfl
  case rts => exact charges_of_transfer .rts 6 rfl (by simp) rfl rfl rfl
  case rti => exact charges_of_transfer .rti 6 rfl (by simp) rfl rfl rfl
  case brk => exact charges_of_transfer .brk 7 rfl (by simp) rfl rfl rfl
  case kil op => exact charges_of_charged ⟨_, rfl, (BitVec.add_zero _).symm, rfl⟩ rfl rfl rfl
  all_goals
    simp only [exec, execTax, execTay, execTxa, execTya, execTsx, execTxs, execInx, execIny, execDex, execDey, execPha,
      execPhp, execPla, execPlp, execClc, execSec, execCli, execSei, execCld, execSed, execClv, execNop, execFailsoft]
    refine charges_of_charged (implied_charged _ ?_ s) rfl rfl rfl
    exact fun _ => ⟨rfl, rfl⟩

/-! ### The table of the opcode bytes (R80, R85, R117)

Each of the four columns is compared with the class of the decoded instruction over the 256 rows, with the operands left
symbolic. -/

theorem baseCycles_decodeStaged (op data : Byte) (addr : Word) :
    baseCycles (decodeStaged op data addr) = tableCycles.getD op.toNat 0 := by
  revert op
  exact of_decide_eq_true rfl

theorem pcAdvance_decodeStaged (op data : Byte) (addr : Word) :
    pcAdvance (decodeStaged op data addr) = tableLen.getD op.toNat 0 := by
  revert op
  exact of_decide_eq_true rfl

theorem pageSensitive_decodeStaged (op data : Byte) (addr : Word) :
    pageSensitive (decodeStaged op data addr) = penaltyOpcodes.contains op := by
  revert op
  exact of_decide_eq_true rfl

theorem transfersControl_decodeStaged (op data : Byte) (addr : Word) :
    transfersControl (decodeStaged op data addr) = transferOpcodes.contains op := by
  revert op
  exact of_decide_eq_true rfl

/-- Settles O42: what `exec` charges is fixed by the class of the instruction, and the class by the opcode byte. -/
theorem cycleCostsMatchTheTable : Obligations.CycleCostsMatchTheTable := by
  intro op data addr s
  obtain ⟨t, ht, hcycles, hpc⟩ := exec_charges (decodeStaged op data addr) s
  simp only [baseCycles_decodeStaged, pageSensitive_decodeStaged, List.contains_iff_mem] at hcycles
  rw [transfersControl_decodeStaged, pcAdvance_decodeStaged] at hpc
  exact ⟨t, ht, hcycles, fun hop => hpc (by simpa using hop)⟩

end Sys2Proof.Machine
end

section
/-! PROOF. The statements of 41_load_store.md: loads, stores, register transfers, and sample words of every family. -/

namespace Sys2Proof.Machine

/-! ### From the meaning of an instruction to its rule (R100)

An instruction whose meaning is one of the shared shapes keeps the rule of that shape; each encoding adds what its opcode
byte decodes to, its length and its cost. -/

/-- `act` has the effect `effect`, wherever PC and the trace have got to: the shapes let an instruction act after PC has
advanced and the reads are recorded, a rule states its effect on the state before. -/
def ActsAs (act effect : State → State) : Prop :=
  ∀ (s : State) (pc : Word) (trace : List Event),
    act { s with pc := pc, trace := trace } = { effect s with pc := pc, trace := trace }

/-- Z and N of a result that depends on neither PC nor the trace (R43). -/
theorem actsAs_setZN {put : State → State} {result : State → Byte} (hput : ActsAs put put)
    (hresult : ∀ (s : State) (pc : Word) (trace : List Event),
      result { s with pc := pc, trace := trace } = result s) :
    ActsAs (fun s => setZN (result s) (put s)) (fun s => withZN (result s) (put s)) := by
  intro s pc trace
  dsimp only
  rw [hput, hresult, zeroNegativeHelper]
  rfl

/-- The ticks after an act end the rule of its effect. -/
theorem ActsAs.emitTicks {act effect : State → State} (h : ActsAs act effect) (s : State) (pc : Word)
    (trace : List Event) (k : Nat) :
    (act { s with pc := pc, trace := trace }).emitTicks k = ends (effect s) pc k trace := by
  rw [h, emitTicks_ends]
  rfl

theorem readRule_of_exec {mk : Src → Instr} {act effect : Byte → State → State} {op : Byte} {form : Byte → Word → Src}
    {len : Word} {cycles : Nat} {plus : Bool}
    (hexec : ∀ src s, exec (mk src) s = readOp src act s) (hact : ∀ m, ActsAs (act m) (effect m))
    (hdecode : ∀ data addr, decodeStaged op data addr = mk (form data addr))
    (hlen : ∀ data addr, srcLen (form data addr) = len) (hcycles : ∀ data addr, readCycles (form data addr) = cycles)
    (hplus : ∀ data addr, srcMayCross (form data addr) = plus) : ReadRule mk effect op form len cycles plus := by
  intro data addr s
  refine ⟨hdecode data addr, ?_⟩
  rw [hexec, readOp_eq, (hact _).emitTicks, hlen, hcycles, load_cross_toNat, hplus]
  simp only [Bool.and_eq_true]

theorem storeRule_of_exec {mk : MemMode → Instr} {value : State → Byte} {op : Byte} {form : Byte → Word → MemMode}
    {len : Word} {cycles : Nat} (hexec : ∀ m s, exec (mk m) s = storeOp m (value s) s)
    (hdecode : ∀ data addr, decodeStaged op data addr = mk (form data addr))
    (hlen : ∀ data addr, memLen (form data addr) = len)
    (hcycles : ∀ data addr, storeCycles (form data addr) = cycles) : StoreRule mk value op form len cycles := by
  intro data addr s
  refine ⟨hdecode data addr, _, (hexec _ s).trans (storeOp_eq _ _ s), ?_, rfl, fun b => read_write _ _ b _⟩
  rw [hlen, hcycles]
  rfl

theorem impliedRule_of_exec {i : Instr} {act effect : State → State} {op : Byte} {cycles : Nat}
    (hexec : ∀ s, exec i s = implied cycles act s) (hact : ActsAs act effect)
    (hdecode : ∀ data addr, decodeStaged op data addr = i) : ImpliedRule i effect op cycles := fun data addr s =>
  ⟨hdecode data addr, (hexec s).trans (congrArg _ (hact.emitTicks s (s.pc + 1) s.trace cycles))⟩

/-! ### Loads, stores and transfers (R130 to R141) -/

/-- Settles O20: a load is the read shape, and the operand it puts into its register is also the result for Z and N. -/
theorem loadRules : Obligations.LoadRules := by
  refine ⟨⟨?_, ?_, ?_, ?_, ?_, ?_, ?_, ?_⟩, ⟨?_, ?_, ?_, ?_, ?_⟩, ⟨?_, ?_, ?_, ?_, ?_⟩⟩
  all_goals
    refine readRule_of_exec (fun _ _ => rfl) (fun m => actsAs_setZN (result := fun _ => m) ?_ fun _ _ _ => rfl)
      (fun _ _ => rfl) (fun _ _ => rfl) (fun _ _ => rfl) (fun _ _ => rfl)
    exact fun _ _ _ => rfl

/-- Settles O21: a store is the store shape with its register as the value. -/
theorem storeRules : Obligations.StoreRules := by
  refine ⟨⟨?_, ?_, ?_, ?_, ?_, ?_, ?_⟩, ⟨?_, ?_, ?_⟩, ⟨?_, ?_, ?_⟩, fun _ _ => rfl⟩
  all_goals
    exact storeRule_of_exec (fun _ _ => rfl) (fun _ _ => rfl) (fun _ _ => rfl) (fun _ _ => rfl)

/-- Settles O22: a transfer is the implied shape; TXS alone leaves Z and N out of its act. -/
theorem transferRules : Obligations.TransferRules := by
  refine ⟨?_, ?_, ?_, ?_, ?_, ?txs⟩
  case txs =>
    exact impliedRule_of_exec (act := fun s => { s with sp := s.x }) (fun _ => rfl) (fun _ _ _ => rfl) fun _ _ => rfl
  all_goals
    refine impliedRule_of_exec (fun _ => rfl) (actsAs_setZN ?_ ?_) fun _ _ => rfl
    all_goals exact fun _ _ _ => rfl

/-! ### Sample words -/

/-- Settles O4: closed facts about the decoder, evaluated. -/
theorem sampleWordsDecode : Obligations.SampleWordsDecode :=
  ⟨rfl, rfl, rfl, rfl, rfl, rfl, rfl, rfl, rfl, rfl⟩

end Sys2Proof.Machine
end

section
/-! PROOF. The statements of 42_arith.md: the four adders as exact arithmetic, compare, and every encoding of the
arithmetic, compare, increment and decrement instructions. -/

namespace Sys2Proof.Machine

/-! ### The sign bits that V reads (R160, R162) -/

theorem getLsbD_seven_iff (b : Byte) : b.getLsbD 7 = true ↔ 128 ≤ b.toNat := by
  rw [getLsbD_seven, decide_eq_true_iff]

/-- Masking a byte with 0x80 keeps its top bit alone. -/
theorem and_signMask_ne_zero (b : Byte) : (b &&& 0x80) != 0 ↔ 128 ≤ b.toNat := by
  rw [show (0x80 : Byte) = BitVec.twoPow 8 7 from rfl, BitVec.and_twoPow, ← getLsbD_seven_iff]
  by_cases h : b.getLsbD 7 = true
  · rw [if_pos h]
    exact iff_of_true rfl h
  · rw [if_neg h]
    exact iff_of_false (by decide) h

theorem sign_xor (a b : Byte) : 128 ≤ (a ^^^ b).toNat ↔ ¬(128 ≤ a.toNat ↔ 128 ≤ b.toNat) := by
  simp only [← getLsbD_seven_iff, BitVec.getLsbD_xor, bne_iff_ne, ne_eq, ← Bool.eq_iff_iff]

theorem sign_and (a b : Byte) : 128 ≤ (a &&& b).toNat ↔ 128 ≤ a.toNat ∧ 128 ≤ b.toNat := by
  simp only [← getLsbD_seven_iff, BitVec.getLsbD_and, Bool.and_eq_true]

theorem signed_complement (b : Byte) : signed (~~~b) = -1 - signed b := by
  rw [signed, signed, BitVec.toNat_not]
  split <;> split <;> omega

/-- V of an addition: the operands' sign bits agree and differ from the result's. -/
theorem addOverflow_iff (a m r : Byte) :
    (~~~(a ^^^ m) &&& (a ^^^ r) &&& 0x80) != 0 ↔
      (128 ≤ a.toNat ↔ 128 ≤ m.toNat) ∧ ¬(128 ≤ r.toNat ↔ 128 ≤ a.toNat) := by
  have hnot : 128 ≤ (~~~(a ^^^ m)).toNat ↔ ¬ 128 ≤ (a ^^^ m).toNat := by
    rw [BitVec.toNat_not]
    omega
  rw [and_signMask_ne_zero, sign_and, hnot, sign_xor, sign_xor, not_not, iff_comm (a := 128 ≤ r.toNat)]

/-! ### Binary addition and subtraction (R160, R162) -/

theorem toNat_addBin_r (a m : Byte) (c : Bool) : (addBin a m c).r.toNat = (a.toNat + m.toNat + c.toNat) % 256 :=
  BitVec.toNat_ofNat _ 8

theorem addBin_c_iff (a m : Byte) (c : Bool) : (addBin a m c).c = true ↔ a.toNat + m.toNat + c.toNat > 255 :=
  decide_eq_true_iff

/-- V by the sign bits is V by the signed sum. -/
theorem addBin_v_iff_signed (a m : Byte) (c : Bool) :
    (addBin a m c).v = true ↔ signed a + signed m + c.toNat < -128 ∨ signed a + signed m + c.toNat > 127 := by
  have hv : (addBin a m c).v = true ↔ _ := addOverflow_iff a m (addBin a m c).r
  have hc := Bool.toNat_le c
  rw [hv, toNat_addBin_r, signed, signed]
  split <;> split <;> omega

/-- Settles O15: each field is read off `addBin`, and V is also the signed overflow. -/
theorem binaryAdditionLaw : Obligations.BinaryAdditionLaw := fun a m c =>
  ⟨toNat_addBin_r a m c, addBin_c_iff a m c, addOverflow_iff a m _, addBin_v_iff_signed a m c, beq_iff_eq,
    getLsbD_seven_iff _⟩

/-- Settles O16: the complement stands for 255 - m, and for -1 - m as a signed number. -/
theorem binarySubtractionLaw : Obligations.BinarySubtractionLaw := by
  intro a m c
  refine ⟨rfl, ?result, ?carry, ?overflow⟩
  case result =>
    rw [subBin, toNat_addBin_r, BitVec.toNat_not]
    omega
  case carry =>
    rw [subBin, addBin_c_iff, BitVec.toNat_not]
    omega
  case overflow =>
    rw [subBin, addBin_v_iff_signed, signed_complement]
    omega

/-! ### Nibbles (R161, R163) -/

theorem toNat_lowNibble (b : Byte) : (b &&& 0x0F).toNat = b.toNat % 16 := Nat.and_two_pow_sub_one_eq_mod b.toNat 4

theorem and_highMask (k : Nat) : k &&& 0xF0 = 16 * (k / 16 % 16) := by
  have hdiv : (k &&& 0xF0) / 16 = k / 16 % 16 :=
    (Nat.and_div_two_pow (n := 4)).trans (Nat.and_two_pow_sub_one_eq_mod (k / 16) 4)
  have hmod : (k &&& 0xF0) % 16 = 0 := (Nat.and_mod_two_pow (n := 4)).trans (Nat.and_zero _)
  omega

theorem toNat_highNibble (b : Byte) : (b &&& 0xF0).toNat = 16 * (b.toNat / 16) := by
  have h : (b &&& 0xF0).toNat = 16 * (b.toNat / 16 % 16) := and_highMask b.toNat
  omega

/-- A byte put together from the high nibble of one number and a low nibble. -/
theorem toNat_joinNibbles (hi : Nat) {lo : Nat} (hlo : lo < 16) :
    (BitVec.ofNat 8 ((hi &&& 0xF0) ||| lo)).toNat = 16 * (hi / 16 % 16) + lo := by
  have hor : 16 * (hi / 16 % 16) + lo = 16 * (hi / 16 % 16) ||| lo := Nat.two_pow_add_eq_or_of_lt (i := 4) hlo _
  rw [and_highMask, ← hor, BitVec.toNat_ofNat]
  omega

theorem toNat_joinNibbles_mask (hi lo : Nat) :
    (BitVec.ofNat 8 ((hi &&& 0xF0) ||| (lo &&& 0x0F))).toNat = 16 * (hi / 16 % 16) + lo % 16 := by
  rw [show lo &&& 0x0F = lo % 16 from Nat.and_two_pow_sub_one_eq_mod lo 4, toNat_joinNibbles hi (by omega)]

/-! ### Decimal addition (R161) -/

/-- Every field of `addDec`, nibble by nibble, for every operand. -/
theorem addDec_nibbles (a m : Byte) (c : Bool) :
    let lo := a.toNat % 16 + m.toNat % 16 + c.toNat
    let hi := 16 * (a.toNat / 16) + 16 * (m.toNat / 16) + (if lo > 9 then 16 else 0)
    let t := 16 * (hi / 16 % 16) + lo % 16
    ((addDec a m c).c = true ↔ hi > 0x9F) ∧
    ((addDec a m c).z = true ↔ t = 0) ∧
    ((addDec a m c).n = true ↔ 128 ≤ t) ∧
    ((addDec a m c).v = true ↔ (128 ≤ a.toNat ↔ 128 ≤ m.toNat) ∧ ¬(128 ≤ t ↔ 128 ≤ a.toNat)) ∧
    (addDec a m c).r.toNat =
      16 * ((if hi > 0x9F then hi + 0x60 else hi) / 16 % 16) + (if lo > 9 then lo + 6 else lo) % 16 := by
  intro lo hi t
  simp only [addDec, toNat_lowNibble, toNat_highNibble, decide_eq_true_eq, beq_iff_eq, getLsbD_seven_iff,
    addOverflow_iff, ← BitVec.toNat_inj, toNat_joinNibbles_mask]
  exact ⟨Iff.rfl, Iff.rfl, Iff.rfl, Iff.rfl, rfl⟩

theorem decimalCarry {k : Nat} (hk : k ≤ 19) : (if k > 9 then 16 else 0) = 16 * (k / 10) := by
  split <;> omega

/-- The adjustment of a nibble sum of two digits and a carry leaves the digit of the sum. -/
theorem decimalAdjust {k : Nat} (hk : k ≤ 19) : (if k > 9 then k + 6 else k) % 16 = k % 10 := by
  split <;> omega

theorem decimalAdjust_high {k : Nat} (hk : k ≤ 19) :
    (if 16 * k > 0x9F then 16 * k + 0x60 else 16 * k) / 16 % 16 = k % 10 := by
  rw [← decimalAdjust hk]
  split <;> split <;> omega

/-- On valid operands each nibble of the result is a digit of the decimal sum. -/
theorem addDec_bcd {a m : Byte} (c : Bool) (ha : validBcd a) (hm : validBcd m) :
    validBcd (addDec a m c).r ∧
    bcdValue (addDec a m c).r = (bcdValue a + bcdValue m + c.toNat) % 100 ∧
    ((addDec a m c).c = true ↔ bcdValue a + bcdValue m + c.toNat ≥ 100) := by
  obtain ⟨hcarry, -, -, -, hresult⟩ := addDec_nibbles a m c
  obtain ⟨hax, hap⟩ := ha
  obtain ⟨hmx, hmp⟩ := hm
  have hc := Bool.toNat_le c
  have hlo : a.toNat % 16 + m.toNat % 16 + c.toNat ≤ 19 := by omega
  rw [decimalCarry hlo, ← Nat.mul_add, ← Nat.mul_add] at hcarry hresult
  rw [decimalAdjust hlo, decimalAdjust_high (by omega)] at hresult
  rw [hcarry]
  simp only [validBcd, bcdValue]
  omega

/-- Settles O17: the nibble formulas, and their meaning on digits. -/
theorem decimalAdditionLaw : Obligations.DecimalAdditionLaw :=
  ⟨addDec_nibbles, fun _ _ => addDec_bcd⟩

/-! ### Decimal subtraction (R163) -/

/-- A byte put together from nibbles that are integers until they are reduced. -/
theorem toNat_joinNibbles_int (hi lo : Int) :
    ((BitVec.ofNat 8 (((hi % 256).toNat &&& 0xF0) ||| (lo % 16).toNat)).toNat : Int) =
      16 * (hi / 16 % 16) + lo % 16 := by
  rw [toNat_joinNibbles _ (by omega)]
  omega

/-- Carry and result of `subDec`, nibble by nibble, for every operand. -/
theorem subDec_nibbles (a m : Byte) (c : Bool) :
    let lo : Int := (a.toNat % 16 : Nat) + (15 - (m.toNat % 16 : Nat)) + c.toNat
    let hi : Int := 16 * (a.toNat / 16 : Nat) + (240 - 16 * (m.toNat / 16 : Nat)) + (if lo > 15 then 16 else 0)
    ((subDec a m c).c = true ↔ hi > 255) ∧
    ((subDec a m c).r.toNat : Int) =
      16 * ((if hi > 255 then hi else hi - 0x60) / 16 % 16) + (if lo > 15 then lo else lo - 6) % 16 := by
  intro lo hi
  have hlo : ((a.toNat % 16 + (15 - m.toNat % 16) + c.toNat : Nat) : Int) = lo := by omega
  have hhi : ((16 * (a.toNat / 16) + (240 - 16 * (m.toNat / 16)) +
      (if a.toNat % 16 + (15 - m.toNat % 16) + c.toNat > 15 then 16 else 0) : Nat) : Int) = hi := by
    simp only [hi, ← hlo]
    split <;> split <;> omega
  simp only [subDec, toNat_lowNibble, toNat_highNibble, decide_eq_true_eq, toNat_joinNibbles_int]
  simp only [← hlo, ← hhi, gt_iff_lt, Nat.ofNat_lt_cast, true_and]

/-- The combination `t` of the two nibbles before they are adjusted (R163). -/
def subDecUnadjusted (a m : Byte) (c : Bool) : Byte :=
  let lo := (a &&& 0x0F).toNat + (0x0F - (m &&& 0x0F).toNat) + c.toNat
  let hi := (a &&& 0xF0).toNat + (0xF0 - (m &&& 0xF0).toNat) + (if decide (lo > 0x0F) then 0x10 else 0)
  BitVec.ofNat 8 ((hi &&& 0xF0) ||| (lo &&& 0x0F))

theorem subDecUnadjusted_eq (a m : Byte) (c : Bool) : subDecUnadjusted a m c = (subBin a m c).r := by
  apply BitVec.eq_of_toNat_eq
  have ha := Nat.div_add_mod a.toNat 16
  have hm := Nat.div_add_mod m.toNat 16
  have hc := Bool.toNat_le c
  rw [subBin, toNat_addBin_r, BitVec.toNat_not]
  simp only [subDecUnadjusted, toNat_joinNibbles_mask, toNat_lowNibble, toNat_highNibble, decide_eq_true_eq]
  split <;> omega

theorem subDec_c (a m : Byte) (c : Bool) : (subDec a m c).c = (subBin a m c).c := by
  have hc := Bool.toNat_le c
  rw [Bool.eq_iff_iff, (subDec_nibbles a m c).1, subBin, addBin_c_iff, BitVec.toNat_not]
  split <;> omega

/-- Before they are adjusted, the two nibbles are those of the binary difference, so the flags are its flags. -/
theorem subDec_flags (a m : Byte) (c : Bool) :
    (subDec a m c).c = (subBin a m c).c ∧ (subDec a m c).z = (subBin a m c).z ∧
    (subDec a m c).n = (subBin a m c).n ∧ (subDec a m c).v = (subBin a m c).v := by
  have ht := subDecUnadjusted_eq a m c
  refine ⟨subDec_c a m c, congrArg (· == 0) ht, congrArg (·.getLsbD 7) ht, ?_⟩
  have hxor : ~~~(a ^^^ ~~~m) = a ^^^ m := by rw [BitVec.not_xor_right, BitVec.not_not]
  calc (subDec a m c).v
      _ = (((a ^^^ m) &&& (a ^^^ subDecUnadjusted a m c) &&& 0x80) != 0) := rfl
      _ = ((~~~(a ^^^ ~~~m) &&& (a ^^^ (subBin a m c).r) &&& 0x80) != 0) := by rw [ht, hxor]

theorem noBorrowCarry {k : Int} (h6 : 6 ≤ k) (h25 : k ≤ 25) : (if k > 15 then 16 else 0) = 16 * (k / 16) := by
  split <;> omega

/-- The adjustment of a nibble difference leaves the digit of the difference: 6 is the excess of 16 over 10. -/
theorem decimalAdjust_sub {k : Int} (h6 : 6 ≤ k) (h25 : k ≤ 25) :
    (if k > 15 then k else k - 6) % 16 = (k - 6) % 10 := by
  split <;> omega

theorem decimalAdjust_sub_high {k : Int} (h6 : 6 ≤ k) (h25 : k ≤ 25) :
    (if 16 * k > 255 then 16 * k else 16 * k - 0x60) / 16 % 16 = (k - 6) % 10 := by
  rw [← decimalAdjust_sub h6 h25]
  split <;> split <;> omega

/-- On valid operands each nibble of the result is a digit of the decimal difference. -/
theorem subDec_bcd {a m : Byte} (c : Bool) (ha : validBcd a) (hm : validBcd m) :
    validBcd (subDec a m c).r ∧
    (bcdValue (subDec a m c).r : Int) = ((bcdValue a : Int) - bcdValue m - (1 - c.toNat)) % 100 ∧
    ((subDec a m c).c = true ↔ (bcdValue a : Int) - bcdValue m - (1 - c.toNat) ≥ 0) := by
  obtain ⟨hcarry, hresult⟩ := subDec_nibbles a m c
  obtain ⟨hax, hap⟩ := ha
  obtain ⟨hmx, hmp⟩ := hm
  have hc := Bool.toNat_le c
  generalize hlo : ((a.toNat % 16 : Nat) + (15 - (m.toNat % 16 : Nat)) + c.toNat : Int) = lo at hcarry hresult
  have hhi : 16 * ((a.toNat / 16 : Nat) : Int) + (240 - 16 * (m.toNat / 16 : Nat)) + 16 * (lo / 16) =
      16 * ((a.toNat / 16 : Nat) + (15 - (m.toNat / 16 : Nat)) + lo / 16) := by ring
  rw [noBorrowCarry (by omega) (by omega), hhi] at hcarry hresult
  rw [decimalAdjust_sub (by omega) (by omega), decimalAdjust_sub_high (by omega) (by omega)] at hresult
  rw [hcarry]
  simp only [validBcd, bcdValue]
  obtain hnone | hborrow : lo / 16 = 1 ∨ lo / 16 = 0 := by omega
  · omega
  · omega

/-- Settles O18: the nibble formulas, the binary flags, and the meaning on digits. -/
theorem decimalSubtractionLaw : Obligations.DecimalSubtractionLaw :=
  ⟨subDec_nibbles, subDec_flags, fun _ _ => subDec_bcd⟩

/-! ### Compare (R166) -/

/-- Settles O19: the difference mod 256 as a number. -/
theorem compareLaw : Obligations.CompareLaw := by
  intro reg m s
  have hdiff : (reg - m).toNat = (reg.toNat + 256 - m.toNat) % 256 := by
    rw [BitVec.toNat_sub]
    omega
  rw [compareFlags, zeroNegativeHelper]
  simp only [withZN, ← BitVec.toNat_inj, hdiff]
  rfl

/-- A compare acts by the flags its rule names, when its register depends on neither PC nor the trace. -/
theorem actsAs_compareFlags {reg : State → Byte}
    (hreg : ∀ (s : State) (pc : Word) (trace : List Event), reg { s with pc := pc, trace := trace } = reg s)
    (m : Byte) :
    ActsAs (fun s => compareFlags (reg s) m s)
      (fun s => withZN (reg s - m) { s with c := decide (m.toNat ≤ (reg s).toNat) }) := by
  refine actsAs_setZN (put := fun s => { s with c := m.ule (reg s) }) (result := fun s => reg s - m) ?_ ?_
  · intro s pc trace
    dsimp only
    rw [hreg]
  · intro s pc trace
    rw [hreg]

/-! ### Arithmetic, compare, increment and decrement (R164 to R175) -/

/-- An instruction whose meaning is the read-modify-write shape keeps its rule: its flags are the act on the operand and
the result, wherever PC, the memory and the trace have got to (R119). -/
theorem rmwRule_of_exec {mk : MemMode → Instr} {result : State → Byte → Byte} {act : Byte → Byte → State → State}
    {flags : Byte → State → State} {op : Byte} {form : Byte → Word → MemMode} {len : Word} {cycles : Nat}
    (hexec : ∀ m s, exec (mk m) s = rmwOp (.mem m) (result s) act s)
    (hact : ∀ (b : Byte) (s : State) (pc : Word) (mem : Memory) (trace : List Event),
      act b (result s b) { s with pc := pc, mem := mem, trace := trace } =
        { flags b s with pc := pc, mem := mem, trace := trace })
    (hdecode : ∀ data addr, decodeStaged op data addr = mk (form data addr))
    (hlen : ∀ data addr, memLen (form data addr) = len)
    (hcycles : ∀ data addr, rmwCycles (.mem (form data addr)) = cycles) :
    RmwRule mk result flags op form len cycles := by
  intro data addr s
  refine ⟨hdecode data addr, _, (hexec _ s).trans (rmwOp_mem_eq _ _ _ s), ?_, ?_, fun b => ?_⟩
  all_goals rw [hact, emitTicks_ends, loadMem_eq]
  · rw [hlen, hcycles]
    rfl
  · rfl
  · exact read_write _ _ b _

/-- Settles O23: ADC and SBC are the read shape with the adder that D selects. -/
theorem addAndSubtractRules : Obligations.AddAndSubtractRules := by
  refine ⟨?adc, ?sbc⟩
  case adc =>
    refine ⟨?_, ?_, ?_, ?_, ?_, ?_, ?_, ?_⟩
    all_goals
      exact readRule_of_exec (act := fun m t => putAlu (adcResult t.d t.a m t.c) t) (fun _ _ => rfl)
        (fun _ _ _ _ => rfl) (fun _ _ => rfl) (fun _ _ => rfl) (fun _ _ => rfl) (fun _ _ => rfl)
  case sbc =>
    refine ⟨?_, ?_, ?_, ?_, ?_, ?_, ?_, ?_⟩
    all_goals
      exact readRule_of_exec (act := fun m t => putAlu (sbcResult t.d t.a m t.c) t) (fun _ _ => rfl)
        (fun _ _ _ _ => rfl) (fun _ _ => rfl) (fun _ _ => rfl) (fun _ _ => rfl) (fun _ _ => rfl)

/-- Settles O24: a compare is the read shape with the flags of its register against the operand. -/
theorem compareRules : Obligations.CompareRules := by
  refine ⟨⟨?_, ?_, ?_, ?_, ?_, ?_, ?_, ?_⟩, ⟨?_, ?_, ?_⟩, ⟨?_, ?_, ?_⟩⟩
  all_goals
    exact readRule_of_exec (fun _ _ => rfl) (actsAs_compareFlags fun _ _ _ => rfl) (fun _ _ => rfl) (fun _ _ => rfl)
      (fun _ _ => rfl) (fun _ _ => rfl)

/-- Settles O25: the memory forms are the read-modify-write shape, the register forms the implied shape. -/
theorem incrementAndDecrementRules : Obligations.IncrementAndDecrementRules := by
  unfold Obligations.IncrementAndDecrementRules
  simp only [← byte_add_one, ← byte_sub_one]
  refine ⟨⟨?_, ?_, ?_, ?_⟩, ⟨?_, ?_, ?_, ?_⟩, ?inx, ?iny, ?dex, ?dey⟩
  case inx | iny | dex | dey =>
    refine impliedRule_of_exec (fun _ => rfl) (actsAs_setZN ?_ ?_) fun _ _ => rfl
    all_goals exact fun _ _ _ => rfl
  all_goals
    refine rmwRule_of_exec (act := fun _ r t => setZN r t) (fun _ _ => rfl) (fun _ _ _ _ _ => ?_) (fun _ _ => rfl)
      (fun _ _ => rfl) fun _ _ => rfl
    rw [zeroNegativeHelper]
    rfl

end Sys2Proof.Machine
end

section
/-! PROOF. The statements of 43_logic_shift.md: logic, the bit test, shifts and rotates. -/

namespace Sys2Proof.Machine

/-! ### Single bits as arithmetic (R193 to R197) -/

theorem getLsbD_zero (b : Byte) : b.getLsbD 0 = decide (b.toNat % 2 = 1) := Nat.testBit_zero b.toNat

theorem getLsbD_six (b : Byte) : b.getLsbD 6 = decide (64 ≤ b.toNat % 128) := by
  rw [BitVec.getLsbD, Nat.testBit_eq_decide_div_mod_eq, decide_eq_decide]
  omega

/-! ### Shift and rotate results as arithmetic (R194 to R197) -/

theorem shiftLeft_eq_ofNat (m : Byte) : shiftLeft m = BitVec.ofNat 8 (2 * m.toNat % 256) := by
  apply BitVec.eq_of_toNat_eq
  simp [shiftLeft, Nat.shiftLeft_eq, Nat.mul_comm]

theorem shiftRight_eq_ofNat (m : Byte) : shiftRight m = BitVec.ofNat 8 (m.toNat / 2) := by
  apply BitVec.eq_of_toNat_eq
  rw [shiftRight, BitVec.toNat_ushiftRight, BitVec.toNat_ofNat, Nat.shiftRight_eq_div_pow]
  omega

/-- The doubled byte leaves bit 0 free, so the carry is added where it is or-ed in (R196). -/
theorem rotateLeft_eq_ofNat (c : Bool) (m : Byte) :
    rotateLeft c m = BitVec.ofNat 8 ((2 * m.toNat + c.toNat) % 256) := by
  apply BitVec.eq_of_toNat_eq
  have hcarry : (if c then (0x01 : Byte) else 0).toNat = c.toNat := by cases c <;> rfl
  have hdouble : (m <<< 1).toNat = 2 * (m.toNat % 128) := by
    rw [BitVec.toNat_shiftLeft, Nat.shiftLeft_eq]
    omega
  have hc := Bool.toNat_lt c
  have hor : 2 * (m.toNat % 128) + c.toNat = 2 * (m.toNat % 128) ||| c.toNat :=
    Nat.two_pow_add_eq_or_of_lt (i := 1) hc _
  rw [rotateLeft, BitVec.toNat_or, hcarry, hdouble, ← hor, BitVec.toNat_ofNat]
  omega

/-- The halved byte leaves bit 7 free, so the carry is added where it is or-ed in (R197). -/
theorem rotateRight_eq_ofNat (c : Bool) (m : Byte) :
    rotateRight c m = BitVec.ofNat 8 (m.toNat / 2 + 128 * c.toNat) := by
  apply BitVec.eq_of_toNat_eq
  have hcarry : (if c then (0x80 : Byte) else 0).toNat = 128 * c.toNat := by cases c <;> rfl
  have hhalf : (m >>> 1).toNat = m.toNat / 2 := BitVec.toNat_ushiftRight m 1
  have hc := Bool.toNat_lt c
  have hor : 128 * c.toNat + m.toNat / 2 = 128 * c.toNat ||| m.toNat / 2 :=
    Nat.two_pow_add_eq_or_of_lt (i := 7) (by omega) _
  rw [rotateRight, BitVec.toNat_or, hcarry, hhalf, Nat.or_comm, ← hor, BitVec.toNat_ofNat]
  omega

/-! ### Logic and the bit test (R190 to R193) -/

/-- Settles O26: the three are the read shape, and what they put into A is the result for Z and N. -/
theorem logicRules : Obligations.LogicRules := by
  refine ⟨⟨?_, ?_, ?_, ?_, ?_, ?_, ?_, ?_⟩, ⟨?_, ?_, ?_, ?_, ?_, ?_, ?_, ?_⟩, ⟨?_, ?_, ?_, ?_, ?_, ?_, ?_, ?_⟩⟩
  all_goals
    refine readRule_of_exec (fun _ _ => rfl) (fun _ => actsAs_setZN ?_ ?_) (fun _ _ => rfl) (fun _ _ => rfl)
      (fun _ _ => rfl) (fun _ _ => rfl)
    all_goals exact fun _ _ _ => rfl

/-- Z comes from the masked accumulator, N and V from the operand itself (R193). -/
theorem actsAs_bitTest (m : Byte) :
    ActsAs (bitTest m) fun s =>
      { s with z := decide (s.a &&& m = 0), n := decide (128 ≤ m.toNat), v := decide (64 ≤ m.toNat % 128) } := by
  intro s pc trace
  rw [bitTest, getLsbD_seven, getLsbD_six]
  rfl

/-- BIT on a mode that cannot cross a page. -/
theorem exec_bit {m : MemMode} (hmode : mayCross m = false) (s : State) :
    exec (.bit m) s =
      .next (ends
        { s with
          z := decide (s.a &&& (s.loadMem m).value = 0)
          n := decide (128 ≤ (s.loadMem m).value.toNat)
          v := decide (64 ≤ (s.loadMem m).value.toNat % 128) }
        (s.pc + memLen m) (readCycles (.mem m)) (s.loadMem m).st.trace) := by
  have hcross : (s.load (.mem m)).cross = false := resolve_cross_of_not_mayCross hmode s
  rw [exec, execBit, readOp_eq, (actsAs_bitTest _).emitTicks, hcross]
  rfl

/-- Settles O27: neither of the two modes can cross a page. -/
theorem bitTestRule : Obligations.BitTestRule :=
  ⟨fun _ _ s => ⟨rfl, exec_bit rfl s⟩, fun _ _ s => ⟨rfl, exec_bit rfl s⟩⟩

/-! ### Shifts and rotates (R194 to R197) -/

theorem shiftFlags_eq_withZN (c : Bool) (r : Byte) (s : State) : shiftFlags c r s = withZN r { s with c := c } :=
  zeroNegativeHelper r _

/-- The meaning that the memory forms of all four instructions share keeps their rule: `result s` is what becomes of
the byte, and `out` the bit that leaves it. -/
theorem shiftRule_mem {mk : MemMode → Instr} {result : State → Byte → Byte} {out : Byte → Bool} {op : Byte}
    {form : Byte → Word → MemMode} {len : Word} {cycles : Nat}
    (hexec : ∀ m s, exec (mk m) s = rmwOp (.mem m) (result s) (fun b r t => shiftFlags (out b) r t) s)
    (hdecode : ∀ data addr, decodeStaged op data addr = mk (form data addr))
    (hlen : ∀ data addr, memLen (form data addr) = len)
    (hcycles : ∀ data addr, rmwCycles (.mem (form data addr)) = cycles) :
    RmwRule mk result (fun b s => withZN (result s b) { s with c := out b }) op form len cycles := by
  refine rmwRule_of_exec hexec (fun b s pc mem trace => ?_) hdecode hlen hcycles
  rw [shiftFlags_eq_withZN]
  rfl

/-- The same for the accumulator form. -/
theorem shiftRule_acc {i : Instr} {op : Byte} (result : State → Byte → Byte) (out : Byte → Bool)
    (hexec : ∀ s, exec i s = rmwOp .acc (result s) (fun b r t => shiftFlags (out b) r t) s)
    (hdecode : ∀ data addr, decodeStaged op data addr = i) :
    ImpliedRule i (fun s => withZN (result s s.a) { s with a := result s s.a, c := out s.a }) op 2 := by
  intro data addr s
  refine ⟨hdecode data addr, ?_⟩
  rw [hexec, rmwOp_acc_eq, shiftFlags_eq_withZN, emitTicks_ends]
  rfl

/-- Settles O28: the arithmetic of the statement is the model's own shift and the bit that it drops. -/
theorem shiftRules : Obligations.ShiftRules := by
  unfold Obligations.ShiftRules
  simp only [← shiftLeft_eq_ofNat, ← shiftRight_eq_ofNat, ← getLsbD_seven, ← getLsbD_zero]
  refine ⟨⟨?aslAcc, ?_, ?_, ?_, ?_⟩, ⟨?lsrAcc, ?_, ?_, ?_, ?_⟩⟩
  case aslAcc => exact shiftRule_acc (fun _ => shiftLeft) (·.getLsbD 7) (fun _ => rfl) fun _ _ => rfl
  case lsrAcc => exact shiftRule_acc (fun _ => shiftRight) (·.getLsbD 0) (fun _ => rfl) fun _ _ => rfl
  all_goals exact shiftRule_mem (fun _ _ => rfl) (fun _ _ => rfl) (fun _ _ => rfl) fun _ _ => rfl

/-- Settles O29: as O28, where the result also takes the carry of the state before. -/
theorem rotateRules : Obligations.RotateRules := by
  unfold Obligations.RotateRules
  simp only [← rotateLeft_eq_ofNat, ← rotateRight_eq_ofNat, ← getLsbD_seven, ← getLsbD_zero]
  refine ⟨⟨?rolAcc, ?_, ?_, ?_, ?_⟩, ⟨?rorAcc, ?_, ?_, ?_, ?_⟩⟩
  case rolAcc => exact shiftRule_acc (fun s => rotateLeft s.c) (·.getLsbD 7) (fun _ => rfl) fun _ _ => rfl
  case rorAcc => exact shiftRule_acc (fun s => rotateRight s.c) (·.getLsbD 0) (fun _ => rfl) fun _ _ => rfl
  all_goals exact shiftRule_mem (fun _ _ => rfl) (fun _ _ => rfl) (fun _ _ => rfl) fun _ _ => rfl

end Sys2Proof.Machine
end

section
/-! PROOF. The statements of 44_control.md on calls, returns, BRK and RTI. -/

namespace Sys2Proof.Machine

/-! ### Calls and returns (R221, R222) -/

/-- JSR as one update: the pushed word is `PCnext - 1`, the address of the JSR's last byte (R221). -/
theorem exec_jsr (addr : Word) (s : State) :
    exec (.jsr addr) s =
      .next (ends
        { s with
          sp := s.sp - 2
          mem := (s.mem.write (stackAddr s.sp) (hi8 (s.pc + 2))).write (stackAddr (s.sp - 1)) (lo8 (s.pc + 2)) }
        addr 6
        (s.trace ++ [.write (stackAddr s.sp) (hi8 (s.pc + 2)),
          .write (stackAddr (s.sp - 1)) (lo8 (s.pc + 2))])) := by
  have hlast : s.pc + 3 - 1 = s.pc + 2 := by bv_omega
  simp only [exec, execJsr, pushWord_eq, State.advance, hlast, sub_one_sub_one, emitTicks_ends]
  rfl

/-- RTS as one update: the pulled word plus one (R222). -/
theorem exec_rts (s : State) :
    exec .rts s =
      .next (ends { s with sp := s.sp + 2 }
        (joinBytes (s.mem.read (stackAddr (s.sp + 1))) (s.mem.read (stackAddr (s.sp + 2))) + 1) 6
        (s.trace ++ [.read (stackAddr (s.sp + 1)), .read (stackAddr (s.sp + 2))])) := by
  simp only [exec, execRts, implied, pullWord_fst, pullWord_snd, State.advance, add_one_add_one, emitTicks_ends]
  rfl

/-- Settles O32: both are the updates above, and the bytes after two pushes are `read_pushTwo`. -/
theorem callAndReturnRules : Obligations.CallAndReturnRules := fun _ addr s =>
  ⟨rfl, rfl, exec_rts s, _, exec_jsr addr s, rfl, rfl, read_pushTwo s.mem s.sp _ _⟩

/-- The two bytes above SP after a pushed word, joined as the pulls join them, are that word (R61, R62). -/
theorem joinBytes_read_pushTwo (m : Memory) (sp : Byte) (w : Word) :
    joinBytes (((m.write (stackAddr sp) (hi8 w)).write (stackAddr (sp - 1)) (lo8 w)).read (stackAddr (sp - 2 + 1)))
      (((m.write (stackAddr sp) (hi8 w)).write (stackAddr (sp - 1)) (lo8 w)).read (stackAddr (sp - 2 + 2))) = w := by
  have hlow : sp - 2 + 1 = sp - 1 := by bv_omega
  have hhigh : sp - 2 + 2 = sp := by bv_omega
  simp only [hlow, hhigh, read_pushTwo, stackAddr_inj, sub_one_ne, if_true, if_false, joinBytes_lo8_hi8]

/-- Settles O33: RTS pulls the word that JSR pushed, and adds the one that JSR left out. -/
theorem returnUndoesCall : Obligations.ReturnUndoesCall := by
  intro addr pc' s
  refine ⟨_, _, exec_jsr addr s, exec_rts _, ?pc, ?sp, rfl, rfl, rfl, rfl, rfl, rfl⟩
  case pc =>
    calc _ = s.pc + 2 + 1 := congrArg (· + 1) (joinBytes_read_pushTwo s.mem s.sp (s.pc + 2))
      _ = s.pc + 3 := by bv_omega
  case sp => exact BitVec.sub_add_cancel s.sp 2

/-! ### BRK and RTI (R223, R224) -/

/-- BRK as one update: interrupt entry after the signature byte, with the status as it reads (R224). -/
theorem exec_brk (s : State) :
    exec .brk s =
      .next (ends
        { s with
          sp := s.sp - 3
          i := true
          mem := ((s.mem.write (stackAddr s.sp) (hi8 (s.pc + 2))).write (stackAddr (s.sp - 1))
            (lo8 (s.pc + 2))).write (stackAddr (s.sp - 2)) (statusRead s) }
        (joinBytes (s.mem.read irqVector) (s.mem.read (irqVector + 1))) 7
        (s.trace ++ [.write (stackAddr s.sp) (hi8 (s.pc + 2)), .write (stackAddr (s.sp - 1)) (lo8 (s.pc + 2)),
          .write (stackAddr (s.sp - 2)) (statusRead s), .read irqVector, .read (irqVector + 1)])) := by
  obtain ⟨hlow, hhigh⟩ := irqVector_far
  simp only [exec, execBrk, enterInterrupt_eq _ _ _ hlow hhigh, State.advance, sub_one_sub_one, sub_two_sub_one,
    emitTicks_ends]
  rfl

/-- Settles O35: the update above, and the bytes after three pushes are `read_pushThree`. -/
theorem breakRule : Obligations.BreakRule := fun _ _ s =>
  ⟨rfl, _, exec_brk s, rfl, rfl, read_pushThree s.mem s.sp _ _ _⟩

/-- RTI as one update: the six flags and PC from the stack (R223). -/
theorem exec_rti (s : State) :
    exec .rti s =
      .next (ends { statusWrite (s.mem.read (stackAddr (s.sp + 1))) s with sp := s.sp + 3 }
        (joinBytes (s.mem.read (stackAddr (s.sp + 2))) (s.mem.read (stackAddr (s.sp + 3)))) 6
        (s.trace ++ [.read (stackAddr (s.sp + 1)), .read (stackAddr (s.sp + 2)), .read (stackAddr (s.sp + 3))])) := by
  simp only [exec, execRti, implied, returnFromInterrupt_eq, State.advance, add_one_add_one, add_two_add_one,
    emitTicks_ends]
  rfl

/-- Settles O34: RTI decodes from its byte, and its meaning is the update above. -/
theorem returnFromInterruptRule : Obligations.ReturnFromInterruptRule := fun _ _ s => ⟨rfl, exec_rti s⟩

end Sys2Proof.Machine
end

section
/-! PROOF. The statements of 45_stack_flags.md. -/

namespace Sys2Proof.Machine

/-! ### Pushes and pulls (R240 to R243) -/

/-- Where `value` does not read PC, the implied shape around a push is one update: the byte of the state before is
written at the stack address, and SP goes down by one (R61). -/
theorem implied_push {value : State → Byte} (hvalue : ∀ (k : Word) (s : State), value (s.advance k) = value s)
    (cycles : Nat) (s : State) :
    implied cycles (fun t => t.push (value t)) s =
      .next (ends { s with sp := s.sp - 1, mem := s.mem.write (stackAddr s.sp) (value s) } (s.pc + 1) cycles
        (s.trace ++ [.write (stackAddr s.sp) (value s)])) := by
  simp only [implied, hvalue, emitTicks_ends]
  rfl

/-- Where `act` has its effect wherever SP, PC and the trace have got to, the implied shape around a pull is one
update: the byte above SP is read, and SP goes up by one (R62). -/
theorem implied_pull {act effect : Byte → State → State}
    (hact : ∀ (b : Byte) (s : State) (sp : Byte) (pc : Word) (trace : List Event),
      act b { s with sp := sp, pc := pc, trace := trace } = { effect b s with sp := sp, pc := pc, trace := trace })
    (cycles : Nat) (s : State) :
    implied cycles (fun t => act t.pull.1 t.pull.2) s =
      .next (ends { effect (s.mem.read (stackAddr (s.sp + 1))) s with sp := s.sp + 1 } (s.pc + 1) cycles
        (s.trace ++ [.read (stackAddr (s.sp + 1))])) := by
  have hpull : (s.advance 1).pull.2 =
      { s with sp := s.sp + 1, pc := s.pc + 1, trace := s.trace ++ [.read (stackAddr (s.sp + 1))] } := rfl
  simp only [implied, hpull, hact, emitTicks_ends]
  rfl

/-- Settles O37: PHA and PHP are the push above, PLA and PLP the pull; a pushed byte shows at its address alone
(`read_write`). -/
theorem stackInstructionRules : Obligations.StackInstructionRules := by
  refine ⟨fun _ _ s => ?pha, fun _ _ s => ?php, fun _ _ s => ?pla, fun _ _ s => ?plp⟩
  case pha =>
    exact ⟨rfl, _, implied_push (value := State.a) (fun _ _ => rfl) 3 s, rfl, rfl, fun b => read_write _ _ b _⟩
  case php =>
    exact ⟨rfl, _, implied_push (value := statusRead) (fun _ _ => rfl) 3 s, rfl, rfl, fun b => read_write _ _ b _⟩
  case pla =>
    refine ⟨rfl, implied_pull (act := fun b t => setZN b { t with a := b })
      (effect := fun b t => withZN b { t with a := b }) (fun _ _ _ _ _ => ?_) 4 s⟩
    rw [zeroNegativeHelper]
    rfl
  case plp => exact ⟨rfl, implied_pull (act := statusWrite) (fun _ _ _ _ _ => rfl) 4 s⟩

/-! ### Flags and NOP (R244 to R251) -/

/-- An act that neither reads nor sets PC or the trace is itself the effect of its rule. -/
theorem impliedRule_of_exec_effect {i : Instr} {effect : State → State} {op : Byte} {cycles : Nat}
    (hexec : ∀ s, exec i s = implied cycles effect s) (heffect : ActsAs effect effect)
    (hdecode : ∀ data addr, decodeStaged op data addr = i) : ImpliedRule i effect op cycles :=
  impliedRule_of_exec hexec heffect hdecode

/-- Settles O38: each is the implied shape, and its act is its effect. -/
theorem flagInstructionRules : Obligations.FlagInstructionRules := by
  refine ⟨?clc, ?sec, ?cli, ?sei, ?cld, ?sed, ?clv, ?nop⟩
  all_goals exact impliedRule_of_exec_effect (fun _ => rfl) (fun _ _ _ => rfl) fun _ _ => rfl

end Sys2Proof.Machine
end

section
/-! PROOF. The statements of 47_illegal.md: ANC, KIL and the fail-soft no-op. -/

namespace Sys2Proof.Machine

/-! ### ANC (R260) -/

/-- C is the top bit of the masked accumulator, which is what N becomes (R43). -/
theorem actsAs_andThenCarry (m : Byte) :
    ActsAs (fun t => { setZN (t.a &&& m) { t with a := t.a &&& m } with c := (t.a &&& m).getLsbD 7 })
      (fun s => withZN (s.a &&& m) { s with a := s.a &&& m, c := decide (128 ≤ (s.a &&& m).toNat) }) := by
  intro s pc trace
  dsimp only
  rw [zeroNegativeHelper, getLsbD_seven]
  rfl

/-- ANC as one update, whichever of its two opcode bytes the term carries. -/
theorem exec_anc (op imm : Byte) (s : State) :
    exec (.anc op imm) s =
      .next (ends (withZN (s.a &&& imm) { s with a := s.a &&& imm, c := decide (128 ≤ (s.a &&& imm).toNat) })
        (s.pc + 2) 2 s.trace) := by
  rw [exec, execAnc, readOp_eq]
  exact congrArg _ ((actsAs_andThenCarry imm).emitTicks s (s.pc + 2) s.trace 2)

/-- Settles O39: both bytes decode to ANC, and its meaning is the update above. -/
theorem andThenCarryRule : Obligations.AndThenCarryRule := fun op hop data addr s =>
  ⟨decodeStaged_of_mem_ancOpcodes data addr op hop, exec_anc op data s⟩

/-! ### KIL (R261) -/

/-- Settles O40: the twelve bytes decode to KIL, whose meaning is this one update of the latch as it stands. -/
theorem haltRule : Obligations.HaltRule := fun op hop data addr _ =>
  ⟨decodeStaged_of_mem_kilOpcodes data addr op hop, rfl⟩

/-! ### The fail-soft no-op (R262) -/

/-- The report comes after the events so far and before the ticks. -/
theorem exec_failsoft (op : Byte) (s : State) :
    exec (.failsoft op) s = .next (ends s (s.pc + 1) 2 (s.trace ++ [.diagUnknown op])) := by
  rw [exec, execFailsoft, implied, emitTicks_ends]
  rfl

/-- Settles O41: the 91 bytes decode to the fail-soft no-op, and its meaning is the update above. -/
theorem failSoftRule : Obligations.FailSoftRule := fun op hop data addr s =>
  ⟨decodeStaged_of_mem_failsoftOpcodes data addr op hop, exec_failsoft op s⟩

end Sys2Proof.Machine
end

section
/-! PROOF. The statements of 60_exceptions.md: interrupt service and the return from it, the branches of a step, the
ticks, and the host's ports. -/

namespace Sys2Proof.Machine

/-! ### Every step answers (R282, R86) -/

/-- Settles O49: `exec_bookkeeping` answers for every term, and each branch of a step is an answer or an `exec`. -/
theorem everyStepAnswers : Obligations.EveryStepAnswers := by
  have hexec (i : Instr) (s : State) : ∃ t, exec i s = .next t := (exec_bookkeeping i s).imp fun _ => And.left
  refine ⟨hexec, fun s => ?_⟩
  unfold step
  cases s.stepBranch with
  | instruction => exact hexec _ _
  | _ => exact ⟨_, rfl⟩

/-! ### The ticks of a step (R288, R289) -/

/-- Tickless events and then `k` ticks after the count `c`: the trace's own ticks are those `k`. -/
theorem counts_ticks {c k : Nat} {es : List Event} {t : State} (htrace : t.trace = es ++ tickEvents c k)
    (hcycles : t.cycles = c + k) (hes : tickCount es = 0) :
    t.cycles = c + tickCount t.trace ∧ t.trace = es ++ tickEvents c (tickCount t.trace) ∧ tickCount es = 0 := by
  have hk : tickCount t.trace = k := by rw [htrace, tickCount_append, hes, tickCount_tickEvents, Nat.zero_add]
  rw [hk]
  exact ⟨hcycles, htrace, hes⟩

/-- An instruction appends its events and then its ticks; run after the staging reads, those ticks are all there are. -/
theorem exec_stage_counts_ticks (i : Instr) (s : State) :
    ∃ t es, exec i s.beginStep.stage = .next t ∧ t.cycles = s.cycles + tickCount t.trace ∧
      t.trace = es ++ tickEvents s.cycles (tickCount t.trace) ∧ tickCount es = 0 := by
  obtain ⟨t, ht, hbook⟩ := exec_bookkeeping i s.beginStep.stage
  obtain ⟨⟨es, k, htrace, hcycles, hes, -⟩, -⟩ := hbook
  rw [stage_cycles, beginStep_cycles] at htrace hcycles
  have hstage : tickCount (s.beginStep.stage.trace ++ es) = 0 := by
    rw [tickCount_append, hes, stage_trace]
    rfl
  exact ⟨t, _, ht, counts_ticks htrace hcycles hstage⟩

/-- Settles O52: each branch of a step ends its trace in the ticks it charges. The reset sequence counts from 0, a
halted step charges nothing, and an instruction appends to the three staging reads. -/
theorem counterCountsTicks : Obligations.CounterCountsTicks := by
  intro s
  obtain ⟨-, hreset, e⟩ | ⟨-, hreset, -, e⟩ | ⟨-, hreset, -, -, e⟩ | ⟨-, hreset, -, -, -, -, e⟩ |
    ⟨-, hreset, -, -, -, e⟩ := step_cases s
  all_goals simp only [hreset, if_true, Bool.false_eq_true, if_false]
  case inl =>
    refine ⟨_, [.read resetVector, .read (resetVector + 1)], e, ?_⟩
    rw [serviceReset_eq]
    exact counts_ticks (k := 7) rfl rfl rfl
  case inr.inl => exact ⟨_, [], e, counts_ticks (k := 0) rfl rfl rfl⟩
  case inr.inr.inl =>
    rw [serviceNmi_eq] at e
    exact ⟨_, _, e, counts_ticks (k := 7) rfl rfl rfl⟩
  case inr.inr.inr.inl =>
    rw [serviceIrq_eq] at e
    exact ⟨_, _, e, counts_ticks (k := 7) rfl rfl rfl⟩
  case inr.inr.inr.inr =>
    rw [e]
    exact exec_stage_counts_ticks _ s

/-! ### Which step is taken (R270 to R275, R284) -/

/-- An instruction leaves the three request latches alone. -/
theorem exec_requests {i : Instr} {s t : State} (h : exec i s = .next t) :
    t.resetPending = s.resetPending ∧ t.nmiPending = s.nmiPending ∧ t.irqPending = s.irqPending := by
  obtain ⟨u, hu, -, hreset, hnmi, hirq, -⟩ := exec_bookkeeping i s
  obtain rfl : u = t := Host.Outcome.next.inj (hu.symm.trans h)
  exact ⟨hreset, hnmi, hirq⟩

/-- The staged instruction halts just where the byte at PC is a KIL byte (R84, R261). -/
theorem setsHalt_stagedInstr (s : State) :
    setsHalt s.beginStep.stage.stagedInstr = kilOpcodes.contains (s.mem.read s.pc) := setsHalt_decodeStaged _ _ _

/-- Settles O47: the rows of the table are the cases of `step_cases`, in its order. -/
theorem stepPriority : Obligations.StepPriority := by
  intro s
  obtain ⟨t, ht⟩ := everyStepAnswers.2 s
  refine ⟨t, ht, ?_⟩
  obtain ⟨hb, hreset, e⟩ | ⟨hb, hreset, hhalted, e⟩ | ⟨hb, hreset, hhalted, hnmi, e⟩ |
    ⟨hb, hreset, hhalted, hnmi, hirq, hi, e⟩ | ⟨hb, hreset, hhalted, hnmi, hirq, e⟩ := step_cases s
  case inr.inr.inr.inr =>
    rw [e] at ht
    have hrequests := exec_requests ht
    have hhalts := exec_halted ht
    simp only [stage_resetPending, stage_nmiPending, stage_irqPending, stage_halted, beginStep_resetPending,
      beginStep_nmiPending, beginStep_irqPending, beginStep_halted, hreset, hhalted, hnmi, setsHalt_stagedInstr,
      Bool.false_or] at hrequests hhalts
    obtain ⟨hreset', hnmi', hirq'⟩ := hrequests
    have hmasked : ¬(s.irqPending = true ∧ s.i = false) := fun ⟨hp, hclear⟩ => by simp [hp, hclear] at hirq
    simp only [hreset, hhalted, hnmi, hmasked, Bool.false_eq_true, if_false]
    exact ⟨hb, hreset', hnmi', hirq', by rw [hhalts, List.contains_iff_mem]⟩
  all_goals cases e.symm.trans ht
  case inl =>
    rw [if_pos hreset, serviceReset_eq]
    exact ⟨hb, rfl, rfl, rfl, rfl⟩
  case inr.inl =>
    simp only [hreset, hhalted, Bool.false_eq_true, if_true, if_false]
    exact ⟨hb, hreset, rfl, rfl, hhalted⟩
  case inr.inr.inl =>
    simp only [hreset, hhalted, hnmi, Bool.false_eq_true, if_true, if_false, serviceNmi_eq]
    exact ⟨hb, hreset, rfl, rfl, hhalted⟩
  case inr.inr.inr.inl =>
    simp only [hreset, hhalted, hnmi, hirq, hi, Bool.false_eq_true, and_self, if_true, if_false, serviceIrq_eq]
    exact ⟨hb, hreset, hnmi, rfl, hhalted⟩

/-- Settles O45: reset is not pending, so the halt latch selects the halted step. -/
theorem haltedStepDropsRequests : Obligations.HaltedStepDropsRequests := by
  intro s hreset hhalted
  have hb : s.stepBranch = .halted := by simp [State.stepBranch, hreset, hhalted]
  rw [step, hb]
  rfl

/-! ### Interrupt entry (R273, R276 to R278) -/

/-- Clearing bit 4 is a mask by 0xEF. -/
theorem serviceStatus_eq (s : State) : serviceStatus s = statusRead s &&& 0xEF := rfl

theorem step_of_nmi {s : State} (h : s.stepBranch = .nmi) : step s = .next s.beginStep.serviceNmi := by
  rw [step, h]

theorem step_of_irq {s : State} (h : s.stepBranch = .irq) : step s = .next s.beginStep.serviceIrq := by
  rw [step, h]

/-- Settles O46: the service sequences are single updates, and the bytes after three pushes are `read_pushThree`. -/
theorem interruptService : Obligations.InterruptService := by
  constructor
  · intro s hreset hhalted hnmi
    have hb : s.stepBranch = .nmi := by simp [State.stepBranch, hreset, hhalted, hnmi]
    refine ⟨_, step_of_nmi hb, ?_⟩
    rw [serviceNmi_eq, serviceStatus_eq]
    exact ⟨rfl, rfl, read_pushThree s.mem s.sp _ _ _⟩
  · intro s hreset hhalted hnmi hirq hi
    have hb : s.stepBranch = .irq := by simp [State.stepBranch, hreset, hhalted, hnmi, hirq, hi]
    refine ⟨_, step_of_irq hb, ?_⟩
    rw [serviceIrq_eq, serviceStatus_eq, ← hnmi]
    exact ⟨rfl, rfl, read_pushThree s.mem s.sp _ _ _⟩

/-- What BRK, NMI and IRQ have in common: `t` is `s` after an entry that pushed the word `pc` and the byte `status`. -/
structure Entered (s t : State) (pc : Word) (status : Byte) : Prop where
  sp : t.sp = s.sp - 3
  mem : t.mem = ((s.mem.write (stackAddr s.sp) (hi8 pc)).write (stackAddr (s.sp - 1)) (lo8 pc)).write
    (stackAddr (s.sp - 2)) status
  registers : t.a = s.a ∧ t.x = s.x ∧ t.y = s.y

/-- BRK enters with the address after its signature byte, and bit 4 set (R224). -/
theorem exec_brk_entered (s : State) : ∃ t, exec .brk s = .next t ∧ Entered s t (s.pc + 2) (statusRead s) :=
  ⟨_, exec_brk s, rfl, rfl, rfl, rfl, rfl⟩

/-- NMI and IRQ service enter with the interrupted PC, and bit 4 clear (R276). -/
theorem step_interrupt_entered {s : State} (h : s.stepBranch = .nmi ∨ s.stepBranch = .irq) :
    ∃ t, step s = .next t ∧ Entered s t s.pc (serviceStatus s) := by
  obtain hb | hb := h
  · refine ⟨_, step_of_nmi hb, ?_⟩
    rw [serviceNmi_eq]
    exact ⟨rfl, rfl, rfl, rfl, rfl⟩
  · refine ⟨_, step_of_irq hb, ?_⟩
    rw [serviceIrq_eq]
    exact ⟨rfl, rfl, rfl, rfl, rfl⟩

/-- The status lies on top of the stack, below the two bytes of PC (R61). -/
theorem Entered.read_stack {s t : State} {pc : Word} {status : Byte} (h : Entered s t pc status) :
    t.mem.read (stackAddr (t.sp + 1)) = status ∧ t.mem.read (stackAddr (t.sp + 2)) = lo8 pc ∧
    t.mem.read (stackAddr (t.sp + 3)) = hi8 pc := by
  have h1 : s.sp - 3 + 1 = s.sp - 2 := by bv_omega
  have h2 : s.sp - 3 + 2 = s.sp - 1 := by bv_omega
  have h3 : s.sp - 3 + 3 = s.sp := by bv_omega
  simp only [h.sp, h.mem, h1, h2, h3, read_pushThree, stackAddr_inj, sub_one_ne, sub_two_ne, sub_two_ne_sub_one,
    if_true, if_false, and_self]

/-! ### The break bit (R283) -/

/-- BRK and PHP push the status as it reads, with bits 4 and 5 set (R34). -/
theorem statusRead_breakBits (s : State) : (statusRead s).getLsbD 4 = true ∧ (statusRead s).getLsbD 5 = true := by
  obtain ⟨-, -, -, -, h4, h5, -⟩ := statusRead_bits s
  exact ⟨h4, h5⟩

theorem serviceStatus_breakBits (s : State) :
    (serviceStatus s).getLsbD 4 = false ∧ (serviceStatus s).getLsbD 5 = true := by
  obtain ⟨-, -, -, -, h4, h5, -⟩ := serviceStatus_bits s
  exact ⟨h4, h5⟩

/-- PHP leaves the status on top of the stack (R241). -/
theorem exec_php_top (s : State) :
    ∃ t, exec .php s = .next t ∧ t.mem.read (stackAddr (t.sp + 1)) = statusRead s := by
  refine ⟨_, implied_push (value := statusRead) (fun _ _ => rfl) 3 s, ?_⟩
  have hsp : s.sp - 1 + 1 = s.sp := BitVec.sub_add_cancel s.sp 1
  simp only [ends, hsp, read_write, if_true]

/-- Settles O48: each source's pushed byte is the one on top of the stack, and BRK and IRQ share a vector. -/
theorem breakBitTellsSourcesApart : Obligations.BreakBitTellsSourcesApart := by
  refine ⟨fun s => ?brk, fun s => ?php, fun s hb => ?service, fun s t h => ?brkVector, fun s t hb h => ?irqVector⟩
  case brk =>
    obtain ⟨t, ht, hentered⟩ := exec_brk_entered s
    exact ⟨t, ht, hentered.read_stack.1 ▸ statusRead_breakBits s⟩
  case php =>
    obtain ⟨t, ht, htop⟩ := exec_php_top s
    exact ⟨t, ht, htop ▸ statusRead_breakBits s⟩
  case service =>
    obtain ⟨t, ht, hentered⟩ := step_interrupt_entered hb
    exact ⟨t, ht, hentered.read_stack.1 ▸ serviceStatus_breakBits s⟩
  case brkVector =>
    cases (exec_brk s).symm.trans h
    rfl
  case irqVector =>
    cases (step_of_irq hb).symm.trans h
    rw [serviceIrq_eq]
    rfl

/-! ### The return from an entry (R223, R286) -/

/-- Bits 4 and 5 of the status read as 1, so setting them changes nothing (R34). -/
theorem statusRead_or_breakBits (s : State) : statusRead s ||| 0x30 = statusRead s := by
  rw [← statusRead_statusWrite (statusRead s) s, statusWrite_statusRead]

/-- The bit that service clears is one the status reads as 1 anyway. -/
theorem serviceStatus_or_breakBits (s : State) : serviceStatus s ||| 0x30 = statusRead s := by
  have hmask : ∀ b : Byte, (b &&& ~~~0x10) ||| 0x30 = b ||| 0x30 := by decide
  exact (hmask _).trans (statusRead_or_breakBits s)

theorem i_eq_of_statusRead_eq {s t : State} (h : statusRead s = statusRead t) : s.i = t.i := by
  obtain ⟨-, -, hs, -⟩ := statusRead_bits s
  obtain ⟨-, -, ht, -⟩ := statusRead_bits t
  rw [← hs, ← ht, h]

/-- What RTI takes from the stack, wherever it stands, and what it leaves alone (R223). -/
theorem exec_rti_pulls (t : State) (pc' : Word) :
    ∃ u, exec .rti { t with pc := pc' } = .next u ∧
      u.pc = joinBytes (t.mem.read (stackAddr (t.sp + 2))) (t.mem.read (stackAddr (t.sp + 3))) ∧
      u.sp = t.sp + 3 ∧ u.mem = t.mem ∧ statusRead u = t.mem.read (stackAddr (t.sp + 1)) ||| 0x30 ∧
      u.a = t.a ∧ u.x = t.x ∧ u.y = t.y :=
  ⟨_, exec_rti _, rfl, rfl, rfl, statusRead_statusWrite _ t, rfl, rfl, rfl⟩

/-- RTI after an entry: the pushed byte and word come back, and SP with them. -/
theorem Entered.rti_resumes {s t : State} {pc : Word} {status : Byte} (h : Entered s t pc status)
    (hstatus : status ||| 0x30 = statusRead s) (pc' : Word) :
    ∃ u, exec .rti { t with pc := pc' } = .next u ∧
      u.pc = pc ∧ u.sp = s.sp ∧ u.mem = t.mem ∧ statusRead u = statusRead s ∧ u.i = s.i ∧
      u.a = s.a ∧ u.x = s.x ∧ u.y = s.y := by
  obtain ⟨htop, hlo, hhi⟩ := h.read_stack
  obtain ⟨ha, hx, hy⟩ := h.registers
  obtain ⟨u, hu, hpc, hsp, hmem, hflags, hua, hux, huy⟩ := exec_rti_pulls t pc'
  rw [hlo, hhi, joinBytes_lo8_hi8] at hpc
  rw [h.sp, BitVec.sub_add_cancel] at hsp
  rw [htop, hstatus] at hflags
  exact ⟨u, hu, hpc, hsp, hmem, hflags, i_eq_of_statusRead_eq hflags, hua.trans ha, hux.trans hx, huy.trans hy⟩

/-- Settles O36: RTI undoes an entry whose status byte has the flags of the state before, as all three do. -/
theorem returnUndoesBreak : Obligations.ReturnUndoesBreak := by
  refine ⟨fun s => ?brk, fun s hb => ?service⟩
  case brk =>
    obtain ⟨t, ht, hentered⟩ := exec_brk_entered s
    exact ⟨t, ht, hentered.rti_resumes (statusRead_or_breakBits s)⟩
  case service =>
    obtain ⟨t, ht, hentered⟩ := step_interrupt_entered hb
    exact ⟨t, ht, hentered.rti_resumes (serviceStatus_or_breakBits s)⟩

/-! ### The host's ports (R279, R289 to R292) -/

/-- `jump_req` as one update: PC from the word at the address, and a trace of its two reads (R291). -/
theorem jumpReq_eq (addr : Word) (s : State) :
    s.jumpReq addr =
      { s with
        pc := joinBytes (s.mem.read addr) (s.mem.read (addr + 1))
        trace := [.read addr, .read (addr + 1)] } := by
  simp only [State.jumpReq, read16_fst, read16_snd]
  rfl

/-- Settles O59: the requests set a latch to a constant, and `jump_req` is the update above. -/
theorem hostPortsBehave : Obligations.HostPortsBehave := fun s _ addr =>
  ⟨rfl, rfl, rfl, rfl, rfl, rfl, rfl, congrArg Host.Outcome.next (jumpReq_eq addr s), rfl, rfl⟩

/-- Settles O60: an observation copies each field, has none for a request latch, and takes the status as it reads. -/
theorem observationHidesLatches : Obligations.ObservationHidesLatches := fun s _ _ _ =>
  ⟨rfl, rfl, rfl, rfl, rfl, rfl, rfl, rfl, rfl, rfl, rfl, rfl, rfl, (statusRead_or_breakBits s).symm, rfl, rfl⟩

end Sys2Proof.Machine
end

section
/-! PROOF. The statements of 70_reset_and_hazards.md: the reset sequence, the end of a run, what timing cannot steer,
and the effect of a change of I on the next step. -/

namespace Sys2Proof.Machine

/-! ### The reset sequence and power-on (R310 to R313) -/

theorem step_of_reset {s : State} (h : s.resetPending = true) : step s = .next s.beginStep.serviceReset := by
  have hb : s.stepBranch = .reset := by simp [State.stepBranch, h]
  rw [step, hb]

/-- Settles O44: reset comes before every other branch, and its sequence is the one update of `serviceReset_eq`. -/
theorem resetSequence : Obligations.ResetSequence := by
  intro s h
  rw [step_of_reset h, serviceReset_eq]
  rfl

/-- Settles O58: power-on sets the counter and the latches to constants, and the reset sequence from the values of
`Config.powerOn` and an empty memory list ends in `State.reset`, field by field. -/
theorem resetStateFollowsPowerOn : Obligations.ResetStateFollowsPowerOn :=
  ⟨fun _ _ => ⟨rfl, rfl, rfl, rfl, rfl, rfl⟩, resetSequence (State.powerOn Config.powerOn []).reqReset rfl⟩

/-! ### The end of a run (R295, R322) -/

/-- The first step of a run, when it answers. -/
theorem run_succ_of_step {M : Host.Core} {s t : M.State} (h : M.step s = .next t) (k : Nat) :
    M.run (k + 1) s = M.run k t := by
  rw [Host.Core.run, h]

/-- A state that steps to itself is where every run from it ends. -/
theorem run_of_step_self {M : Host.Core} {s : M.State} (h : M.step s = .next s) (k : Nat) : M.run k s = .next s := by
  induction k with
  | zero => rfl
  | succ k ih => rw [run_succ_of_step h, ih]

/-- Settles O51: the first halted step drops the requests and the trace; there is then nothing left to drop, so each
further one keeps the state. -/
theorem haltedIsAbsorbing : Obligations.HaltedIsAbsorbing := by
  intro s k hhalted hreset
  have hfirst := haltedStepDropsRequests s hreset hhalted
  have hrest := haltedStepDropsRequests { s with nmiPending := false, irqPending := false, trace := [] } hreset hhalted
  exact ⟨_, (run_succ_of_step (M := core) hfirst k).trans (run_of_step_self (M := core) hrest k), rfl⟩

/-! ### What only counts or reports does not steer (R38, R320)

Two states are the same but for their timing when they agree once it is blanked out. So timing does not steer an
operation when blanking it out beforehand makes no difference to the rest of the result. -/

/-- The state with the counter, the trace and the staging latches blanked out. -/
def State.untimed (s : State) : State :=
  { s with cycles := 0, trace := [], op := 0, data := 0, address := 0 }

theorem sameButTiming_iff_untimed_eq (s t : State) : sameButTiming s t ↔ s.untimed = t.untimed := by
  constructor
  · intro h
    rw [h]
    rfl
  · intro h
    cases s
    cases t
    cases h
    rfl

/-- An effect on the state whose result does not depend on the timing, but for the timing of that result. -/
def TimingBlind (act : State → State) : Prop :=
  ∀ s, (act s).untimed = (act s.untimed).untimed

/-- Where an instruction or a step ends, with the timing blanked out. -/
def untimedEnd (o : Host.Outcome State Fault Refusal) : Option State :=
  (answered o).map State.untimed

@[simp] theorem untimedEnd_next (t : State) : untimedEnd (.next t) = some t.untimed := rfl

/-- Ticks are timing and nothing else (R288). -/
@[simp] theorem untimed_emitTicks (k : Nat) (s : State) : (s.emitTicks k).untimed = s.untimed := by
  rw [emitTicks_eq]
  rfl

/-- No effective address depends on the timing. -/
@[simp] theorem resolve_untimed_ea (m : MemMode) (s : State) : (s.untimed.resolve m).ea = (s.resolve m).ea := by
  cases m <;> rfl

/-- No operand depends on the timing. -/
@[simp] theorem load_untimed_value (src : Src) (s : State) : (s.untimed.load src).value = (s.load src).value := by
  cases src with
  | imm v => rfl
  | mem m =>
    simp only [State.load, loadMem_eq, resolve_untimed_ea]
    rfl

/-- States that agree but for the timing go through a blind effect, and its ticks, to such states. -/
theorem TimingBlind.untimed_emitTicks_eq {act : State → State} (h : TimingBlind act) {s s' : State}
    (hs : s.untimed = s'.untimed) (k k' : Nat) : ((act s).emitTicks k).untimed = ((act s').emitTicks k').untimed := by
  rw [untimed_emitTicks, untimed_emitTicks, h s, h s', hs]

theorem readOp_untimed (src : Src) {act : Byte → State → State} (h : ∀ m, TimingBlind (act m)) (s : State) :
    untimedEnd (readOp src act s) = untimedEnd (readOp src act s.untimed) := by
  rw [readOp_eq, readOp_eq, load_untimed_value]
  refine congrArg some ((h _).untimed_emitTicks_eq ?_ _ _)
  rfl

theorem storeOp_untimed (m : MemMode) (v : Byte) (s : State) :
    untimedEnd (storeOp m v s) = untimedEnd (storeOp m v s.untimed) := by
  rw [storeOp_eq, storeOp_eq, resolve_untimed_ea]
  rfl

theorem rmwOp_untimed (dst : Dst) (result : Byte → Byte) {flags : Byte → Byte → State → State}
    (h : ∀ m r, TimingBlind (flags m r)) (s : State) :
    untimedEnd (rmwOp dst result flags s) = untimedEnd (rmwOp dst result flags s.untimed) := by
  cases dst with
  | acc =>
    rw [rmwOp_acc_eq, rmwOp_acc_eq]
    refine congrArg some ((h _ _).untimed_emitTicks_eq ?_ _ _)
    rfl
  | mem m =>
    rw [rmwOp_mem_eq, rmwOp_mem_eq, resolve_untimed_ea]
    refine congrArg some ((h _ _).untimed_emitTicks_eq ?_ _ _)
    rfl

theorem implied_untimed (cycles : Nat) {act : State → State} (h : TimingBlind act) (s : State) :
    untimedEnd (implied cycles act s) = untimedEnd (implied cycles act s.untimed) :=
  congrArg some (h.untimed_emitTicks_eq (show (s.advance 1).untimed = (s.untimed.advance 1).untimed from rfl) _ _)

theorem branch_untimed (cond : Bool) (off : Byte) (s : State) :
    untimedEnd (branch cond off s) = untimedEnd (branch cond off s.untimed) := by
  rw [branch_eq, branch_eq]
  cases cond <;> rfl

/-- No instruction is steered by the timing: each shape loads, stores and branches by registers and memory alone, and
the action of the instruction reads nothing else either. -/
theorem exec_untimed (i : Instr) (s : State) : untimedEnd (exec i s) = untimedEnd (exec i s.untimed) := by
  cases i
  case lda | ldx | ldy | adc | sbc | cmp | cpx | cpy | and | ora | eor | bit | anc =>
    simp only [exec, execLda, execLdx, execLdy, execAdc, execSbc, execCmp, execCpx, execCpy, execAnd, execOra, execEor,
      execBit, execAnc]
    refine readOp_untimed _ ?_ s
    exact fun _ _ => rfl
  case sta | stx | sty => exact storeOp_untimed _ _ s
  case inc | dec | asl | lsr | rol | ror =>
    simp only [exec, execInc, execDec, execAsl, execLsr, execRol, execRor]
    refine rmwOp_untimed _ _ ?_ s
    exact fun _ _ _ => rfl
  case bcc | bcs | beq | bne | bmi | bpl | bvc | bvs => exact branch_untimed _ _ s
  case jmp target => cases target <;> rfl
  case jsr target =>
    rw [exec_jsr, exec_jsr]
    rfl
  case brk =>
    rw [exec_brk, exec_brk]
    rfl
  case kil => rfl
  all_goals
    simp only [exec, execTax, execTay, execTxa, execTya, execTsx, execTxs, execInx, execIny, execDex, execDey, execRts,
      execRti, execPha, execPhp, execPla, execPlp, execClc, execSec, execCli, execSei, execCld, execSed, execClv,
      execNop, execFailsoft]
    refine implied_untimed _ ?_ s
    exact fun _ => rfl

/-- Nor is a step: the latches and I select its branch, and the bytes at PC its instruction. -/
theorem step_untimed (s : State) : untimedEnd (step s) = untimedEnd (step s.untimed) := by
  have hbranch : s.untimed.stepBranch = s.stepBranch := rfl
  unfold step
  rw [hbranch]
  cases s.stepBranch with
  | reset =>
    rw [serviceReset_eq, serviceReset_eq]
    rfl
  | halted => rfl
  | nmi =>
    rw [serviceNmi_eq, serviceNmi_eq]
    rfl
  | irq =>
    rw [serviceIrq_eq, serviceIrq_eq]
    rfl
  | instruction =>
    have hinstr : s.untimed.beginStep.stage.stagedInstr = s.beginStep.stage.stagedInstr := rfl
    have hstage : s.untimed.beginStep.stage.untimed = s.beginStep.stage.untimed := rfl
    simp only [hinstr]
    rw [exec_untimed, exec_untimed _ s.untimed.beginStep.stage, hstage]

/-- Settles O54: both steps answer, and each ends where the step of the common blanked state does. -/
theorem timingDoesNotSteer : Obligations.TimingDoesNotSteer := by
  intro s s' h
  obtain ⟨t, ht⟩ := everyStepAnswers.2 s
  obtain ⟨t', ht'⟩ := everyStepAnswers.2 s'
  refine ⟨t, t', ht, ht', (sameButTiming_iff_untimed_eq t t').mpr (Option.some.inj ?_)⟩
  calc some t.untimed
    _ = untimedEnd (step s) := by rw [ht, untimedEnd_next]
    _ = untimedEnd (step s') := by rw [step_untimed s, step_untimed s', (sameButTiming_iff_untimed_eq s s').mp h]
    _ = some t'.untimed := by rw [ht', untimedEnd_next]

/-! ### A change of I and the next IRQ check (R317, D33) -/

theorem step_of_instruction {s : State} (h : s.stepBranch = .instruction) :
    step s = exec s.beginStep.stage.stagedInstr s.beginStep.stage := by
  rw [step, h]

/-- What an instruction step starts from: neither reset, halt nor NMI came before it (R270). -/
theorem latches_of_instruction {s : State} (h : s.stepBranch = .instruction) :
    s.resetPending = false ∧ s.halted = false ∧ s.nmiPending = false := by
  have hcases := step_cases s
  simp only [h, reduceCtorEq, false_and, false_or, true_and] at hcases
  obtain ⟨hreset, hhalted, hnmi, -⟩ := hcases
  exact ⟨hreset, hhalted, hnmi⟩

/-- After an instruction step of any byte but a KIL byte, I as that step leaves it decides on an IRQ request. -/
theorem stepBranch_reqIrq {s t : State} (hb : s.stepBranch = .instruction) (h : step s = .next t)
    (hkil : s.mem.read s.pc ∉ kilOpcodes) : t.reqIrq.stepBranch = if t.i then .instruction else .irq := by
  obtain ⟨hreset, hhalted, hnmi⟩ := latches_of_instruction hb
  rw [step_of_instruction hb] at h
  obtain ⟨hreset', hnmi', -⟩ := exec_requests h
  rw [stage_resetPending, beginStep_resetPending, hreset] at hreset'
  rw [stage_nmiPending, beginStep_nmiPending, hnmi] at hnmi'
  have hnoKil : kilOpcodes.contains (s.mem.read s.pc) = false := by simpa using hkil
  have hhalted' : t.halted = false := by
    rw [exec_halted h, setsHalt_stagedInstr, hnoKil, stage_halted, beginStep_halted, hhalted, Bool.or_false]
  simp only [State.stepBranch, State.reqIrq, hreset', hhalted', hnmi']
  cases t.i <;> rfl

/-- So where the byte at PC decodes to an instruction that ends in `u`, I of `u` decides. -/
theorem stepBranch_reqIrq_of_exec {s t u : State} {op : Byte} {i : Instr} {mask : Bool}
    (hb : s.stepBranch = .instruction) (h : step s = .next t) (hop : s.mem.read s.pc = op) (hkil : op ∉ kilOpcodes)
    (hrule : ∀ data addr, decodeStaged op data addr = i ∧ exec i s.beginStep.stage = .next u) (hmask : u.i = mask) :
    t.reqIrq.stepBranch = if mask then .instruction else .irq := by
  obtain ⟨hdecode, hexec⟩ := hrule (s.mem.read (s.pc + 1)) (joinBytes (s.mem.read (s.pc + 1)) (s.mem.read (s.pc + 2)))
  have hstaged : s.beginStep.stage.stagedInstr = i := by
    rw [← hdecode, ← hop]
    rfl
  have hu : step s = .next u := by rw [step_of_instruction hb, hstaged, hexec]
  obtain rfl : t = u := Host.Outcome.next.inj (h.symm.trans hu)
  rw [← hmask]
  exact stepBranch_reqIrq hb h (hop ▸ hkil)

/-- PLP and RTI take I from bit 2 of the byte above SP, which staging has not moved (R243, R223). -/
theorem statusWrite_pulled_stage_i (s : State) :
    (statusWrite (s.beginStep.stage.mem.read (stackAddr (s.beginStep.stage.sp + 1))) s.beginStep.stage).i =
      (s.mem.read (stackAddr (s.sp + 1))).getLsbD 2 := by
  rw [statusWrite_i, stage_mem, stage_sp, beginStep_mem, beginStep_sp]

/-- Settles O55: the rules of CLI, SEI, PLP and RTI say what I is after them, and that I decides. An instruction leaves
the IRQ latch alone, so a request that was pending before the step is one at its end. -/
theorem maskTakesEffectAtOnce : Obligations.MaskTakesEffectAtOnce := by
  intro s t hb h
  obtain ⟨-, -, hcli, hsei, -⟩ := flagInstructionRules
  obtain ⟨-, -, -, hplp⟩ := stackInstructionRules
  have hrti := returnFromInterruptRule
  refine ⟨fun hirq => ?pending, fun hop => ?cli, fun hop => ?sei, fun hop => ?pulled⟩
  case pending =>
    rw [step_of_instruction hb] at h
    obtain ⟨-, -, hkept⟩ := exec_requests h
    rw [stage_irqPending, beginStep_irqPending, hirq] at hkept
    rw [State.reqIrq, ← hkept]
  case cli => exact stepBranch_reqIrq_of_exec hb h hop (by decide) (fun data addr => hcli data addr _) rfl
  case sei => exact stepBranch_reqIrq_of_exec hb h hop (by decide) (fun data addr => hsei data addr _) rfl
  case pulled =>
    have hmask := statusWrite_pulled_stage_i s
    obtain hop | hop := hop
    · exact stepBranch_reqIrq_of_exec hb h hop (by decide) (fun data addr => hplp data addr _) hmask
    · exact stepBranch_reqIrq_of_exec hb h hop (by decide) (fun data addr => hrti data addr _) hmask

end Sys2Proof.Machine
end
